-- ==== Sys2Proof/Word.lean ====
section
/-! DEFINITION. The word types of the block (00_scope.md rule R9: a register value is a 32-bit unsigned
integer, a byte an 8-bit unsigned integer, bit 0 the least significant). -/
namespace Sys2Proof

abbrev Byte := BitVec 8
abbrev Word := BitVec 32

end Sys2Proof
end

