-- ==== Sys2Proof/Syntax.lean ====
section
/-! DEFINITION. The instructions of spec/opcode_table.json, one constructor a row: the ten forms of the
command word (30_encoding.md rules R80, R81) and the five tokens of the RGBE stream (rules R86 to R88).
A command keeps the bits 31:8 that the block ignores (rule R25), so that no bit of a word is lost. -/
namespace Sys2Proof

/-- The instructions: commands the host writes to CMD, and tokens the decoder reads. -/
inductive Instr where
  /-- Row NOP, opcode 0x00 (rule R113). -/
  | nop (ignored : BitVec 24)
  /-- Row RUN, opcode 0x01 (rule R111). -/
  | run (ignored : BitVec 24)
  /-- Row ENCODE_PIXEL, opcode 0x02 (rule R112). -/
  | encodePixel (ignored : BitVec 24)
  /-- Row CLEAR, opcode 0x03 (rule R116). -/
  | clear (ignored : BitVec 24)
  /-- Row RESERVED_04_07 (rule R115): `000001xx`. -/
  | reserved0407 (low : BitVec 2) (ignored : BitVec 24)
  /-- Row RESERVED_08_0F (rule R115): `00001xxx`. -/
  | reserved080F (low : BitVec 3) (ignored : BitVec 24)
  /-- Row RESERVED_10_1F (rule R115): `0001xxxx`. -/
  | reserved101F (low : BitVec 4) (ignored : BitVec 24)
  /-- Row RESERVED_20_3F (rule R115): `001xxxxx`. -/
  | reserved203F (low : BitVec 5) (ignored : BitVec 24)
  /-- Row RESERVED_40_7F (rule R115): `01xxxxxx`. -/
  | reserved407F (low : BitVec 6) (ignored : BitVec 24)
  /-- Row RESERVED_80_FF (rule R115): `1xxxxxxx`. -/
  | reserved80FF (low : BitVec 7) (ignored : BitVec 24)
  /-- Row SCANLINE_MARKER (rules R86, R131): `00000010 00000010 0hhhhhhh llllllll`. -/
  | scanlineMarker (h : BitVec 7) (l : BitVec 8)
  /-- Row RLE_RUN (rules R87, R133): `1nnnnnnn vvvvvvvv`, n not 0. -/
  | rleRun (n : BitVec 7) (v : Byte)
  /-- Row RLE_LITERAL (rules R87, R134): `0nnnnnnn` and n bytes. -/
  | rleLiteral (bytes : List Byte)
  /-- Row RLE_LITERAL_128 (rules R87, R134): `10000000` and 128 bytes. -/
  | rleLiteral128 (bytes : List Byte)
  /-- Row FLAT_PIXEL (rules R88, R136): the bytes R, G, B, E. -/
  | flatPixel (r g b e : Byte)
deriving DecidableEq, Repr

/-- The width a marker declares: `Wm = b2·256 + b3` (rules R86, R95). -/
def markerWidth (h : BitVec 7) (l : BitVec 8) : Nat := h.toNat * 256 + l.toNat

end Sys2Proof
end

