-- ==== Sys2Proof/WellFormed.lean ====
section
/-! DEFINITION. Which terms of `Instr` stand for an encoding of the spec. The field widths are in the
types; what is left are the counts of the packets (30_encoding.md rule R87). -/
namespace Sys2Proof

/-- An instruction that some word or byte sequence of the spec encodes. -/
def Instr.wf : Instr → Bool
  | .nop _ => true
  | .run _ => true
  | .encodePixel _ => true
  | .clear _ => true
  | .reserved0407 _ _ => true
  | .reserved080F _ _ => true
  | .reserved101F _ _ => true
  | .reserved203F _ _ => true
  | .reserved407F _ _ => true
  | .reserved80FF _ _ => true
  | .scanlineMarker _ _ => true
  | .rleRun n _ => decide (n ≠ 0#7)
  | .rleLiteral bytes => decide (bytes.length ≤ 127)
  | .rleLiteral128 bytes => decide (bytes.length = 128)
  | .flatPixel _ _ _ _ => true

/-- The commands, which are words written to CMD; the other instructions are tokens of the stream. -/
def Instr.isCommand : Instr → Bool
  | .nop _ => true
  | .run _ => true
  | .encodePixel _ => true
  | .clear _ => true
  | .reserved0407 _ _ => true
  | .reserved080F _ _ => true
  | .reserved101F _ _ => true
  | .reserved203F _ _ => true
  | .reserved407F _ _ => true
  | .reserved80FF _ _ => true
  | .scanlineMarker _ _ => false
  | .rleRun _ _ => false
  | .rleLiteral _ => false
  | .rleLiteral128 _ => false
  | .flatPixel _ _ _ _ => false

/-- The packets of a plane (rule R87). -/
def Instr.isPacket : Instr → Bool
  | .nop _ => false
  | .run _ => false
  | .encodePixel _ => false
  | .clear _ => false
  | .reserved0407 _ _ => false
  | .reserved080F _ _ => false
  | .reserved101F _ _ => false
  | .reserved203F _ _ => false
  | .reserved407F _ _ => false
  | .reserved80FF _ _ => false
  | .scanlineMarker _ _ => false
  | .rleRun _ _ => true
  | .rleLiteral _ => true
  | .rleLiteral128 _ => true
  | .flatPixel _ _ _ _ => false

end Sys2Proof
end

