-- ==== Sys2Proof/Decode.lean ====
section
/-! DEFINITION. The decoder, total on every command word and every rest of the input, rejecting by name
what is cut short; and after it the encoder, written from the same encodings (30_encoding.md rules R80
to R88, spec/opcode_table.json). What a byte means depends on where the block reads it (rules R86, R87,
R129), so the decoder is given that place. -/
namespace Sys2Proof

/-- Where an instruction is read from. -/
inductive Source where
  /-- A word written to CMD (rule R80). -/
  | command (w : Word)
  /-- The input at the start of a scanline, and whether its width is RLE-eligible (rules R89, R129). -/
  | rowStart (eligible : Bool) (rest : List Byte)
  /-- The input inside a flat scanline (rule R136). -/
  | flat (rest : List Byte)
  /-- The input inside a plane (rule R132). -/
  | packet (rest : List Byte)
deriving DecidableEq, Repr

/-- Why no instruction can be read: the input ends too early. -/
inductive Reject where
  /-- Fewer than four bytes for a marker or a flat pixel (rules R129, R136). -/
  | shortPixel
  /-- No byte where a count byte should be (rule R132). -/
  | noCountByte
  /-- A run of `n` without its value byte (rule R133). -/
  | shortRun (n : Nat)
  /-- A literal of `n` bytes that the input cuts short (rule R134). -/
  | shortLiteral (n : Nat)
deriving DecidableEq, Repr

/-- The command word (rules R80, R81): bits 7:0 select, bits 31:8 are kept and ignored. -/
def decodeCommand (w : Word) : Instr :=
  let op := w.extractLsb' 0 8
  let ignored := w.extractLsb' 8 24
  if op = 0x00#8 then .nop ignored
  else if op = 0x01#8 then .run ignored
  else if op = 0x02#8 then .encodePixel ignored
  else if op = 0x03#8 then .clear ignored
  else if op.toNat < 0x08 then .reserved0407 (op.extractLsb' 0 2) ignored
  else if op.toNat < 0x10 then .reserved080F (op.extractLsb' 0 3) ignored
  else if op.toNat < 0x20 then .reserved101F (op.extractLsb' 0 4) ignored
  else if op.toNat < 0x40 then .reserved203F (op.extractLsb' 0 5) ignored
  else if op.toNat < 0x80 then .reserved407F (op.extractLsb' 0 6) ignored
  else .reserved80FF (op.extractLsb' 0 7) ignored

/-- A flat pixel, the four bytes R, G, B, E (rule R88). -/
def decodeFlat : List Byte → Except Reject Instr
  | b0 :: b1 :: b2 :: b3 :: _ => .ok (.flatPixel b0 b1 b2 b3)
  | _ => .error .shortPixel

/-- The start of a scanline (rules R86, R129, R130): a marker is looked for only if the width is
RLE-eligible, and recognised on `b0 = 2`, `b1 = 2`, `b2[7] = 0`. -/
def decodeRowStart (eligible : Bool) : List Byte → Except Reject Instr
  | b0 :: b1 :: b2 :: b3 :: _ =>
    if eligible = true ∧ b0 = 0x02#8 ∧ b1 = 0x02#8 ∧ b2.toNat < 128 then
      .ok (.scanlineMarker (b2.extractLsb' 0 7) b3)
    else .ok (.flatPixel b0 b1 b2 b3)
  | _ => .error .shortPixel

/-- A packet of a plane (rules R87, R132 to R134), told apart by its count byte. -/
def decodePacket : List Byte → Except Reject Instr
  | [] => .error .noCountByte
  | c :: rest =>
    if 128 < c.toNat then
      match rest with
      | [] => .error (.shortRun (c.toNat - 128))
      | v :: _ => .ok (.rleRun (c.extractLsb' 0 7) v)
    else
      let bytes := rest.take c.toNat
      if bytes.length < c.toNat then .error (.shortLiteral c.toNat)
      else if c.toNat = 128 then .ok (.rleLiteral128 bytes)
      else .ok (.rleLiteral bytes)

/-- The decoder. -/
def decode : Source → Except Reject Instr
  | .command w => .ok (decodeCommand w)
  | .rowStart eligible rest => decodeRowStart eligible rest
  | .flat rest => decodeFlat rest
  | .packet rest => decodePacket rest

/-- What an instruction is written as: a word for CMD, or bytes of the stream. -/
inductive Encoded where
  | word (w : Word)
  | bytes (bs : List Byte)
deriving DecidableEq, Repr

/-- A command word from its eight opcode bits and the ignored bits. -/
def commandWord (op : BitVec 8) (ignored : BitVec 24) : Word :=
  (ignored.setWidth 32 <<< 8) ||| op.setWidth 32

/-- The encoder (rules R80, R86 to R88): a row's fixed bits (its `match`) with its free bits below them. -/
def encode : Instr → Encoded
  | .nop ignored => .word (commandWord 0x00#8 ignored)
  | .run ignored => .word (commandWord 0x01#8 ignored)
  | .encodePixel ignored => .word (commandWord 0x02#8 ignored)
  | .clear ignored => .word (commandWord 0x03#8 ignored)
  | .reserved0407 low ignored => .word (commandWord (0x04#8 ||| low.setWidth 8) ignored)
  | .reserved080F low ignored => .word (commandWord (0x08#8 ||| low.setWidth 8) ignored)
  | .reserved101F low ignored => .word (commandWord (0x10#8 ||| low.setWidth 8) ignored)
  | .reserved203F low ignored => .word (commandWord (0x20#8 ||| low.setWidth 8) ignored)
  | .reserved407F low ignored => .word (commandWord (0x40#8 ||| low.setWidth 8) ignored)
  | .reserved80FF low ignored => .word (commandWord (0x80#8 ||| low.setWidth 8) ignored)
  | .scanlineMarker h l => .bytes [0x02#8, 0x02#8, h.setWidth 8, l]
  | .rleRun n v => .bytes [0x80#8 ||| n.setWidth 8, v]
  | .rleLiteral bytes => .bytes (BitVec.ofNat 8 bytes.length :: bytes)
  | .rleLiteral128 bytes => .bytes (0x80#8 :: bytes)
  | .flatPixel r g b e => .bytes [r, g, b, e]

/-- The bytes of the stream a token takes (rules R86 to R88); a command takes none. -/
def Instr.size : Instr → Nat
  | .nop _ => 0
  | .run _ => 0
  | .encodePixel _ => 0
  | .clear _ => 0
  | .reserved0407 _ _ => 0
  | .reserved080F _ _ => 0
  | .reserved101F _ _ => 0
  | .reserved203F _ _ => 0
  | .reserved407F _ _ => 0
  | .reserved80FF _ _ => 0
  | .scanlineMarker _ _ => 4
  | .rleRun _ _ => 2
  | .rleLiteral bytes => 1 + bytes.length
  | .rleLiteral128 bytes => 1 + bytes.length
  | .flatPixel _ _ _ _ => 4

/-- A row's bits as the stream's bytes: the table numbers a stream row as one number whose most
significant byte comes first. -/
def tableBytes (nbits w : Nat) : List Byte :=
  (List.range (nbits / 8)).map fun i => BitVec.ofNat 8 (w >>> (nbits - 8 * (i + 1)))

/-- Where a table word is read from. DESIGN CHOICE (log 8): the table's number does not say whether it is
a command word or bytes of the stream, so the row with more fixed bits is taken: the marker's 17 before
a command's 8 at 32 bits, RLE_LITERAL_128's 8 before RESERVED_80_FF's 1 at 8 bits. The bits above
`nbits` are zero: a short command word gets zero upper bits, a cut packet gets zero operand bytes. -/
def tableSource (nbits w : Nat) : Source :=
  if nbits = 32 then
    if w >>> 15 = 0x404 then .rowStart true (tableBytes nbits w)
    else if w % 256 < 4 ∨ w < 256 then .command (BitVec.ofNat 32 w)
    else .flat (tableBytes nbits w)
  else if nbits = 8 ∧ w ≠ 0x80 then .command (BitVec.ofNat 32 w)
  else .packet (tableBytes nbits w ++ List.replicate 129 0#8)

/-- The instruction this decoder reads from a row's bits, numbered as spec/opcode_table.json numbers
them. -/
def decodeTableWord (nbits w : Nat) : Option Instr :=
  match decode (tableSource nbits w) with
  | .ok i => some i
  | .error _ => none

end Sys2Proof
end

