-- ==== Sys2Proof/Config.lean ====
section
/-! DEFINITION. What one instance of the block fixes (00_scope.md rule R7, 20_memory.md rule R64), the
constants of rule R8, and the free values of the behaviours the spec leaves unspecified. -/
namespace Sys2Proof

/-- How an exact half is rounded by the final quantization (00_scope.md rules R7 and R11). -/
inductive TieRule where
  | away | even
deriving DecidableEq, Repr

/-- The address spaces the host reaches (20_memory.md rule R61). -/
inductive Space where
  | reg | inp | out
deriving DecidableEq, Repr

/-- The implementation parameters of 00_scope.md rule R7, and the platform's base addresses of
20_memory.md rule R64. They are data of the state that no step changes, so that a statement about every
state is a statement about every instance of the block. -/
structure Params where
  maxW : Nat
  maxH : Nat
  inCap : Nat
  outCap : Nat
  strideAlign : Nat
  workers : Nat
  tie : TieRule
  baseReg : Nat
  baseIn : Nat
  baseOut : Nat
deriving DecidableEq, Repr

/-- The legal values of rule R7's table. -/
abbrev Params.Legal (p : Params) : Prop :=
  (1 ≤ p.maxW ∧ p.maxW ≤ 65535) ∧ (1 ≤ p.maxH ∧ p.maxH ≤ 65535) ∧
  (1 ≤ p.inCap ∧ p.inCap < 2 ^ 32) ∧ (18 ≤ p.outCap ∧ p.outCap < 2 ^ 32) ∧
  (4 ≤ p.strideAlign ∧ 2 ^ p.strideAlign.log2 = p.strideAlign) ∧ 1 ≤ p.workers

/-- The instance that `State.reset` names. DESIGN CHOICE (log 2): rule R7 leaves every value but the
default of `TIE_RULE` open. -/
def Params.standard : Params :=
  { maxW := 65535, maxH := 65535, inCap := 4294967295, outCap := 4294967295,
    strideAlign := 4, workers := 1, tie := .away, baseReg := 0, baseIn := 0, baseOut := 0 }

/-- Where an address of a space stands in the platform's address map (20_memory.md rule R64). -/
def Params.platformAddress (p : Params) : Space → Nat → Nat
  | .reg, a => p.baseReg + a
  | .inp, a => p.baseIn + a
  | .out, a => p.baseOut + a

namespace Config

/-! The constants of rule R8 that are not written in the rule that uses them. -/

/-- The RLE width window `8 ≤ W < 32768` (rules R8, R89). -/
abbrev rleEligible (w : Nat) : Bool := decide (8 ≤ w ∧ w ≤ 32767)

/-- The length of the TGA header (rules R8, R91). -/
abbrev tgaHeaderLength : Nat := 18

/-! The free values. Nothing gives them a value; a proof holds for every value of them. -/

/-- The word a read of a result register answers while BUSY (10_state.md rule R39), by the number of the
draw. Log 7. -/
opaque freeWord : Nat → Word

/-- An unspecified memory byte, by the number of the draw and the address (20_memory.md rules R65, R67).
Logs 3 and 4. -/
opaque freeByte : Nat → Nat → Byte

/-- A padding byte of the packed raster (43_pipeline_tga.md rule R171), by the number of the draw and the
byte's place. Log 12. -/
opaque padByte : Nat → Nat → Byte

end Config

end Sys2Proof
end

