-- ==== Sys2Proof/Machine/State.lean ====
section
/-! DEFINITION. The state of the block as plain data: the registers of 10_state.md rule R24, the two
memories of 20_memory.md rule R61, the command in flight with its captured operands (rule R23) and the
hidden rasters and sequencer (rules R40 to R42); and, as the model's own fields, the moves still to come,
the result of the last read and the numbers of the free values. -/
namespace Sys2Proof.Machine

/-- A memory: the bytes that hold a known value, as (address, byte) pairs with strictly rising addresses.
An address that is not listed holds an unspecified byte (20_memory.md rules R65, R67). -/
abbrev Memory := List Host.Cell

/-- The four planes of a new-RLE scanline, in the order of 30_encoding.md rule R87. -/
inductive Plane where
  | r | g | b | e
deriving DecidableEq, Repr

/-- A pixel of the input: three mantissa bytes and the shared exponent byte (rule R88). -/
structure Rgbe where
  r : Byte
  g : Byte
  b : Byte
  e : Byte
deriving DecidableEq, Repr

/-- A triplet of binary32 patterns (rules R13, R94). -/
structure Rgb where
  r : Word
  g : Word
  b : Word
deriving DecidableEq, Repr

/-- RgbmPixel (rule R13). -/
structure Rgbm where
  r : Byte
  g : Byte
  b : Byte
  m : Byte
deriving DecidableEq, Repr

/-- HdrImage (rules R13, R40): the raster is row-major, row 0 first. -/
structure HdrImage where
  w : Nat
  h : Nat
  raster : List Rgb
deriving DecidableEq, Repr

/-- PackedImage (rules R13, R41): `stride·h` bytes. -/
structure PackedImage where
  w : Nat
  h : Nat
  stride : Nat
  bytes : List Byte
deriving DecidableEq, Repr

/-- The error kinds of 60_exceptions.md rule R190. -/
inductive Kind where
  | invalidHeader
  | truncatedData
  | unsupportedOrientation
  | ioError
  /-- Code 5, never raised by this block (rules R173, R190). -/
  | backendError
deriving DecidableEq, Repr

/-- The detail codes of 60_exceptions.md rule R191, by name (`resGrammar` is the rule's RES_SYNTAX). -/
inductive Detail where
  | noBlankLine | resUnterminated | resGrammar | dimZero | dimTooLarge
  | eofFlat | eofRle | rleOverrun | markerWidth
  | orientation
  | outCapacity
deriving DecidableEq, Repr

/-- A raised error: what is wrong, and the position for ERRPOS (rules R10, R191). -/
structure Failure where
  detail : Detail
  pos : Nat
deriving DecidableEq, Repr

/-- The bytes filled so far in each plane of the scanline being read. -/
structure PlaneBuf where
  r : List Byte
  g : List Byte
  b : List Byte
  e : List Byte
deriving DecidableEq, Repr

/-- Where in a scanline the sequencer is. -/
inductive Phase where
  /-- At the start of a scanline (rule R129). -/
  | start
  /-- In a flat scanline, with the pixels read so far (rule R136). -/
  | flat (row : List Rgbe)
  /-- In a new-RLE scanline, in the plane `k` (rules R131, R132). -/
  | planes (k : Plane) (buf : PlaneBuf)
deriving DecidableEq, Repr

/-- The decoder's sequencer (10_state.md rule R42): the accepted width and height, the cursor `p`, the
scanline counter `y`, the plane and its fill (in `phase`), and the rows of the HDR raster decoded so far. -/
structure Seq where
  w : Nat
  h : Nat
  p : Nat
  y : Nat
  phase : Phase
  raster : List Rgb
deriving DecidableEq, Repr

/-- How far a RUN in flight has come. The stages run strictly in order (20_memory.md rule R73). -/
inductive RunStage where
  /-- Nothing read yet: the header and the resolution line come first (41_rgbe_decoder.md rule R120). -/
  | header
  /-- The resolution line is accepted and scanlines are being read (rules R127, R128). -/
  | scanlines (q : Seq)
  /-- The HDR raster is complete (rules R40, R140). -/
  | decoded (img : HdrImage)
  /-- The packed raster is complete (rules R41, R170). -/
  | packed (pk : PackedImage)
  /-- The file is ready for OUT (43_pipeline_tga.md rule R175); `w` and `h` are the accepted dimensions. -/
  | written (w h : Nat) (file : List Byte)
  /-- An error was raised; `dims` are the dimensions if the resolution line was accepted (rule R127). -/
  | failed (dims : Option (Nat × Nat)) (why : Failure)
deriving DecidableEq, Repr

/-- A command in flight, with the operands it captured at issue (10_state.md rule R23). -/
inductive Job where
  | encode (cr cg cb : Word)
  | run (inb : List Byte) (stage : RunStage)
deriving DecidableEq, Repr

/-- The host's accesses (20_memory.md rule R60), each with its width in bytes, so that the widths that are
not part of the interface (rules R62, R63) can be written down and refused. -/
inductive HostAccess where
  | regRead (off bytes : Nat)
  | regWrite (off bytes : Nat) (v : Word)
  | inRead (a bytes : Nat)
  | inWrite (a bytes : Nat) (b : Byte)
  | outRead (a bytes : Nat)
  /-- Not part of the interface: "There is no host write access to OUT" (rule R60). -/
  | outWrite (a bytes : Nat) (b : Byte)
deriving DecidableEq, Repr

/-- One move of the single total order of rule R70. -/
inductive Event where
  /-- The host makes an access. -/
  | host (a : HostAccess)
  /-- The block takes one hidden step of a RUN (10_state.md rule R42); the host cannot see it. -/
  | tick
  /-- The block takes its completion step (rule R22). -/
  | complete
  /-- The reset input is asserted (70_reset_and_hazards.md rule R220). -/
  | reset
deriving DecidableEq, Repr

/-- What the host's last read access returned (rule R60). -/
inductive Response where
  | none
  | word (v : Word)
  | byte (b : Byte)
deriving DecidableEq, Repr

/-- The two execution states of 10_state.md rule R21. -/
inductive Exec where
  | idle | busy
deriving DecidableEq, Repr

/-- The state of the block. -/
structure State where
  /-- The parameters of this block (00_scope.md rule R7). No step changes them. -/
  params : Params
  /-- The command in flight: absent in IDLE, present in BUSY (10_state.md rules R21, R23). -/
  job : Option Job
  /-- STATUS.DONE (rule R26). -/
  done : Bool
  /-- STATUS.ERR (rule R26). -/
  err : Bool
  /-- STATUS.VIOL (rule R26). -/
  viol : Bool
  /-- ERRINFO (rule R27). -/
  errinfo : Word
  /-- ERRPOS (rule R28). -/
  errpos : Word
  /-- IN_LEN (rule R29). -/
  inLen : Word
  /-- WIDTH[15:0] (rule R30). -/
  width : BitVec 16
  /-- HEIGHT[15:0] (rule R31). -/
  height : BitVec 16
  /-- OUT_LEN (rule R32). -/
  outLen : Word
  /-- PIX_R (rule R33). -/
  pixR : Word
  /-- PIX_G (rule R33). -/
  pixG : Word
  /-- PIX_B (rule R33). -/
  pixB : Word
  /-- PIX_OUT (rule R34). -/
  pixOut : Word
  /-- IRQ_EN.EN (rule R35). -/
  irqEn : Bool
  /-- The IN memory: the bytes written since reset (20_memory.md rule R65). -/
  inMem : Memory
  /-- The OUT memory: the bytes of the last output file (rule R67). -/
  outMem : Memory
  /-- The model's own: the draw that gives the unlisted bytes of IN (log 3). -/
  inSeed : Nat
  /-- The model's own: the draw that gives the unlisted bytes of OUT (log 4). -/
  outSeed : Nat
  /-- The model's own: the number of the next draw of a free value (log 7). -/
  draws : Nat
  /-- The model's own: the moves still to come, the next one first (log 1). -/
  script : List Event
  /-- The model's own: the result of the host's last read access (log 6). -/
  resp : Response
deriving DecidableEq, Repr

/-- Why the machine stops. Neither is raised by `step`: both close a meaning that is total on states the
machine does not bring it to. -/
inductive Fault where
  /-- Raised by the meaning of a stream token in a state whose sequencer is not where that token is read.
  Safe: the spec gives a token no effect there, and `step` never raises it. Log 10. -/
  | tokenOutOfContext
  /-- Raised by a completion whose hidden steps have not ended when their bound is used up. Safe: the bound
  is never used up, since every hidden step of the decoder reads a byte (rule R141). Log 11. -/
  | unsettled
deriving DecidableEq, Repr

/-- What the model does not run. The accesses are those the spec says a model refuses. -/
inductive Refusal where
  /-- Raised by `exec` for an instruction without a meaning, by its mnemonic. Safe. No arm does so. -/
  | notModelled (mnemonic : String)
  /-- Raised by a register access at another offset or width than rule R62 gives. Safe: the rule says that
  a model refuses it. -/
  | registerAccess (off bytes : Nat)
  /-- Raised by an IN access at or above IN_CAP or wider than a byte. Safe: rule R63 says so. -/
  | inAccess (a bytes : Nat)
  /-- Raised by an OUT read at or above OUT_CAP or wider than a byte. Safe: rule R63 says so. -/
  | outAccess (a bytes : Nat)
  /-- Raised by a host write to OUT. Safe: rule R60 says that there is no such access. -/
  | outWriteAccess (a bytes : Nat)
deriving DecidableEq, Repr

/-- The state after reset (10_state.md rule R44) of the block with these parameters. The unspecified bytes
of IN and OUT are the free values of draws 0 and 1. -/
def State.resetWith (p : Params) : State :=
  { params := p, job := none, done := false, err := false, viol := false, errinfo := 0#32,
    errpos := 0#32, inLen := 0#32, width := 0#16, height := 0#16, outLen := 0#32, pixR := 0#32,
    pixG := 0#32, pixB := 0#32, pixOut := 0#32, irqEn := false, inMem := [], outMem := [],
    inSeed := 0, outSeed := 1, draws := 2, script := [], resp := .none }

/-- The machine right after reset. -/
def State.reset : State := State.resetWith Params.standard

/-- The execution state (10_state.md rule R21). -/
def State.execState (s : State) : Exec :=
  match s.job with
  | none => .idle
  | some _ => .busy

/-- `STATUS.BUSY` (rules R21, R26). -/
def State.busy (s : State) : Bool := s.job.isSome

end Sys2Proof.Machine
end

