-- ==== Sys2Proof/Machine/Flags.lean ====
section
/-! DEFINITION. The words put together from fields: STATUS (10_state.md rule R26), ERRINFO (rule R27) with
the codes of 60_exceptions.md rules R190 and R191, the capability registers (rule R36), PIX_OUT (rule R34),
and the interrupt output (60_exceptions.md rule R200). -/
namespace Sys2Proof.Machine

/-- STATUS: BUSY in bit 0, DONE in 1, ERR in 2, VIOL in 3, the rest 0 (rule R26). -/
def State.status (s : State) : Word :=
  (BitVec.ofBool s.busy).setWidth 32 ||| ((BitVec.ofBool s.done).setWidth 32 <<< 1) |||
    ((BitVec.ofBool s.err).setWidth 32 <<< 2) ||| ((BitVec.ofBool s.viol).setWidth 32 <<< 3)

/-- The interrupt output, a level: `EN ∧ (DONE ∨ ERR)` (60_exceptions.md rule R200). -/
def State.irq (s : State) : Bool := s.irqEn && (s.done || s.err)

/-- KIND codes (60_exceptions.md rule R190). -/
def Kind.code : Kind → Nat
  | .invalidHeader => 1
  | .truncatedData => 2
  | .unsupportedOrientation => 3
  | .ioError => 4
  | .backendError => 5

/-- The kind a detail belongs to (rule R191). -/
def Detail.kind : Detail → Kind
  | .noBlankLine => .invalidHeader
  | .resUnterminated => .invalidHeader
  | .resGrammar => .invalidHeader
  | .dimZero => .invalidHeader
  | .dimTooLarge => .invalidHeader
  | .eofFlat => .truncatedData
  | .eofRle => .truncatedData
  | .rleOverrun => .truncatedData
  | .markerWidth => .truncatedData
  | .orientation => .unsupportedOrientation
  | .outCapacity => .ioError

/-- DETAIL codes (rule R191). -/
def Detail.code : Detail → Nat
  | .noBlankLine => 1
  | .resUnterminated => 2
  | .resGrammar => 3
  | .dimZero => 4
  | .dimTooLarge => 5
  | .eofFlat => 1
  | .eofRle => 2
  | .rleOverrun => 3
  | .markerWidth => 4
  | .orientation => 1
  | .outCapacity => 1

/-- STAGE: 1 for an error of the decoder, 3 for one of the writer (rules R27, R193). -/
def Detail.stage : Detail → Nat
  | .noBlankLine => 1
  | .resUnterminated => 1
  | .resGrammar => 1
  | .dimZero => 1
  | .dimTooLarge => 1
  | .eofFlat => 1
  | .eofRle => 1
  | .rleOverrun => 1
  | .markerWidth => 1
  | .orientation => 1
  | .outCapacity => 3

/-- ERRINFO from its codes: KIND in 3:0, STAGE in 7:4, DETAIL in 15:8 (rules R27, R193). -/
def errinfoWord (kind stage detail : Nat) : Word :=
  BitVec.ofNat 32 kind ||| (BitVec.ofNat 32 stage <<< 4) ||| (BitVec.ofNat 32 detail <<< 8)

/-- The ERRINFO a detail is reported with. -/
def Detail.errinfo (d : Detail) : Word := errinfoWord d.kind.code d.stage d.code

/-- PIX_OUT: r, g, b, m from bit 0 upward (rule R34). -/
def Rgbm.word (p : Rgbm) : Word :=
  p.r.setWidth 32 ||| (p.g.setWidth 32 <<< 8) ||| (p.b.setWidth 32 <<< 16) ||| (p.m.setWidth 32 <<< 24)

/-- CAP_DIM: `MAX_W | (MAX_H << 16)` (rule R36). -/
def capDimWord (p : Params) : Word :=
  BitVec.ofNat 32 p.maxW ||| (BitVec.ofNat 32 p.maxH <<< 16)

/-- CAP_IN (rule R36). -/
def capInWord (p : Params) : Word := BitVec.ofNat 32 p.inCap

/-- CAP_OUT (rule R36). -/
def capOutWord (p : Params) : Word := BitVec.ofNat 32 p.outCap

end Sys2Proof.Machine
end

