-- ==== Sys2Proof/Machine/Operands.lean ====
section
/-! DEFINITION. The register map (10_state.md rule R24) with what each register reads as, and the operands
a command captures (rule R23). -/
namespace Sys2Proof.Machine

/-- The sixteen registers of 10_state.md rule R24. -/
inductive Reg where
  | cmd | status | errinfo | errpos | inLen | width | height | outLen
  | pixR | pixG | pixB | pixOut | irqEn | capDim | capIn | capOut
deriving DecidableEq, Repr

/-- The byte offset of a register (rule R24). -/
def Reg.offset : Reg → Nat
  | .cmd => 0x00
  | .status => 0x04
  | .errinfo => 0x08
  | .errpos => 0x0C
  | .inLen => 0x10
  | .width => 0x14
  | .height => 0x18
  | .outLen => 0x1C
  | .pixR => 0x20
  | .pixG => 0x24
  | .pixB => 0x28
  | .pixOut => 0x2C
  | .irqEn => 0x30
  | .capDim => 0x34
  | .capIn => 0x38
  | .capOut => 0x3C

/-- The register at an offset; no other offset is part of the interface (rules R24, R62). -/
def Reg.ofOffset : Nat → Option Reg
  | 0x00 => some .cmd
  | 0x04 => some .status
  | 0x08 => some .errinfo
  | 0x0C => some .errpos
  | 0x10 => some .inLen
  | 0x14 => some .width
  | 0x18 => some .height
  | 0x1C => some .outLen
  | 0x20 => some .pixR
  | 0x24 => some .pixG
  | 0x28 => some .pixB
  | 0x2C => some .pixOut
  | 0x30 => some .irqEn
  | 0x34 => some .capDim
  | 0x38 => some .capIn
  | 0x3C => some .capOut
  | _ => none

/-- The registers whose read while BUSY is unspecified (rule R39). -/
def Reg.isResult : Reg → Bool
  | .errinfo => true
  | .errpos => true
  | .width => true
  | .height => true
  | .outLen => true
  | .pixOut => true
  | .cmd => false
  | .status => false
  | .inLen => false
  | .pixR => false
  | .pixG => false
  | .pixB => false
  | .irqEn => false
  | .capDim => false
  | .capIn => false
  | .capOut => false

/-- The registers the host may write; a write to any other is ignored (rule R24). -/
def Reg.isWritable : Reg → Bool
  | .cmd => true
  | .inLen => true
  | .pixR => true
  | .pixG => true
  | .pixB => true
  | .irqEn => true
  | .status => false
  | .errinfo => false
  | .errpos => false
  | .width => false
  | .height => false
  | .outLen => false
  | .pixOut => false
  | .capDim => false
  | .capIn => false
  | .capOut => false

/-- What a register holds, as a read in IDLE returns it (rules R25 to R36). -/
def State.regValue (s : State) : Reg → Word
  | .cmd => 0#32
  | .status => s.status
  | .errinfo => s.errinfo
  | .errpos => s.errpos
  | .inLen => s.inLen
  | .width => s.width.setWidth 32
  | .height => s.height.setWidth 32
  | .outLen => s.outLen
  | .pixR => s.pixR
  | .pixG => s.pixG
  | .pixB => s.pixB
  | .pixOut => s.pixOut
  | .irqEn => (BitVec.ofBool s.irqEn).setWidth 32
  | .capDim => capDimWord s.params
  | .capIn => capInWord s.params
  | .capOut => capOutWord s.params

/-- The byte a memory lists at an address. -/
def Memory.find (m : Memory) (a : Nat) : Option Byte :=
  match m with
  | [] => none
  | c :: rest => if c.1 = a then some c.2 else Memory.find rest a

/-- Byte `a` of IN: the last byte written there since reset, else an unspecified byte that stays the same
until the next reset (20_memory.md rules R65, R69; log 3). -/
def State.inByte (s : State) (a : Nat) : Byte :=
  (Memory.find s.inMem a).getD (Config.freeByte s.inSeed a)

/-- Byte `a` of OUT in IDLE: the file's byte, else an unspecified byte that stays the same until OUT is next
given up (20_memory.md rules R67, R69; log 4). -/
def State.outByte (s : State) (a : Nat) : Byte :=
  (Memory.find s.outMem a).getD (Config.freeByte s.outSeed a)

/-- The bytes `IN[0..IN_LEN)` that a RUN captures at issue (10_state.md rule R23). -/
def State.captureIn (s : State) : List Byte := (List.range s.inLen.toNat).map s.inByte

end Sys2Proof.Machine
end

