-- ==== Sys2Proof/Machine/Header.lean ====
section
/-! DEFINITION. The RGBE header and the resolution line (41_rgbe_decoder.md rules R121 to R127; the grammar
of 30_encoding.md rules R83 to R85). -/
namespace Sys2Proof.Machine

/-- LF (00_scope.md rule R12). -/
abbrev lineFeed : Byte := 0x0A#8

/-- `skip_header` (rule R121) from offset `p`, where `fresh` says that `p` starts a line: the offset after
the LF of the first blank line, or none if the input ends before one (rule R122). -/
def skipHeader (fresh : Bool) (p : Nat) : List Byte → Option Nat
  | [] => none
  | b :: rest =>
    if b = lineFeed then
      if fresh then some (p + 1) else skipHeader true (p + 1) rest
    else skipHeader false (p + 1) rest

/-- The bytes up to and excluding the next LF, if there is one (rules R83, R123). -/
def lineOf : List Byte → Option (List Byte)
  | [] => none
  | b :: rest => if b = lineFeed then some [] else (lineOf rest).map (b :: ·)

/-- The sign of an axis (rule R84). -/
inductive AxisSign where
  | plus | minus
deriving DecidableEq, Repr

/-- The letter of an axis (rule R84). -/
inductive AxisLetter where
  | x | y
deriving DecidableEq, Repr

/-- `axis := sign letter` (rule R84). -/
structure Axis where
  sign : AxisSign
  letter : AxisLetter
deriving DecidableEq, Repr

/-- The parts of a resolution line: two axes with their numbers (rule R84). -/
structure ResLine where
  first : Axis
  firstNumber : Nat
  second : Axis
  secondNumber : Nat
deriving DecidableEq, Repr

/-- `sign := '+' | '-'`. -/
def signOf (b : Byte) : Option AxisSign :=
  if b = 0x2B#8 then some .plus else if b = 0x2D#8 then some .minus else none

/-- `letter := 'X' | 'Y'`. -/
def letterOf (b : Byte) : Option AxisLetter :=
  if b = 0x58#8 then some .x else if b = 0x59#8 then some .y else none

/-- A digit is a byte in 0x30..0x39 (00_scope.md rule R12). -/
def isDigit (b : Byte) : Bool := decide (0x30 ≤ b.toNat ∧ b.toNat ≤ 0x39)

/-- The exact decimal value of a digit string (rule R84). -/
def decimal (digits : List Byte) : Nat := digits.foldl (fun n d => 10 * n + (d.toNat - 0x30)) 0

/-- An axis at the start of the bytes, and the rest. -/
def takeAxis : List Byte → Option (Axis × List Byte)
  | s :: l :: rest =>
    match signOf s, letterOf l with
    | some sign, some letter => some (⟨sign, letter⟩, rest)
    | _, _ => none
  | _ => none

/-- Exactly one space at the start of the bytes (the grammar has no other), and the rest. -/
def takeSpace : List Byte → Option (List Byte)
  | [] => none
  | b :: rest => if b = 0x20#8 then some rest else none

/-- `number := digit digit*` at the start of the bytes, and the rest. -/
def takeNumber (bs : List Byte) : Option (Nat × List Byte) :=
  if bs.takeWhile isDigit = [] then none
  else some (decimal (bs.takeWhile isDigit), bs.dropWhile isDigit)

/-- An axis, a space and a number. -/
def takeAxisNumber (bs : List Byte) : Option (Axis × Nat × List Byte) :=
  (takeAxis bs).bind fun (axis, bs) =>
  (takeSpace bs).bind fun bs =>
  (takeNumber bs).map fun (n, bs) => (axis, n, bs)

/-- The line by the grammar of rule R84, with two different letters, or none. -/
def parseResLine (line : List Byte) : Option ResLine :=
  (takeAxisNumber line).bind fun (a1, n1, bs) =>
  (takeSpace bs).bind fun bs =>
  (takeAxisNumber bs).bind fun (a2, n2, bs) =>
  if bs = [] ∧ a1.letter ≠ a2.letter then some ⟨a1, n1, a2, n2⟩ else none

/-- W: the number after the X axis (rules R85, R125). -/
def ResLine.w (l : ResLine) : Nat := if l.first.letter = .x then l.firstNumber else l.secondNumber

/-- H: the number after the Y axis. -/
def ResLine.h (l : ResLine) : Nat := if l.first.letter = .x then l.secondNumber else l.firstNumber

/-- The only supported orientation: `-Y` first, `+X` second (rules R85, R126). -/
def ResLine.upright (l : ResLine) : Bool :=
  decide (l.first = ⟨.minus, .y⟩ ∧ l.second = ⟨.plus, .x⟩)

/-- The accepted dimensions and the offset after the resolution line (rule R127). -/
structure Accepted where
  w : Nat
  h : Nat
  next : Nat
deriving DecidableEq, Repr

/-- `parse_resolution(inb, s)` (rules R123 to R127), its checks in the order of 60_exceptions.md rule R195. -/
def parseResolution (p : Params) (inb : List Byte) (s : Nat) : Except Failure Accepted :=
  match lineOf (inb.drop s) with
  | none => .error ⟨.resUnterminated, s⟩
  | some line =>
    match parseResLine line with
    | none => .error ⟨.resGrammar, s⟩
    | some l =>
      if l.w = 0 ∨ l.h = 0 then .error ⟨.dimZero, s⟩
      else if p.maxW < l.w ∨ p.maxH < l.h then .error ⟨.dimTooLarge, s⟩
      else if l.upright then .ok ⟨l.w, l.h, s + line.length + 1⟩
      else .error ⟨.orientation, s⟩

/-- The header and the resolution line together: the start of `rgbe_decode` (rules R120 to R127). -/
def parseHeader (p : Params) (inb : List Byte) : Except Failure Accepted :=
  match skipHeader true 0 inb with
  | none => .error ⟨.noBlankLine, inb.length⟩
  | some s => parseResolution p inb s

end Sys2Proof.Machine
end

