-- ==== Sys2Proof/Machine/Float32.lean ====
section
/-! DEFINITION. The binary32 arithmetic of 00_scope.md rule R11, on the values the block computes with.
After `sanitize` (42_rgbm_encoder.md rule R151) no operand is negative or NaN (rule R153), so a value is
`+∞` or a natural number of units of `2^−149`, the smallest subnormal; every non-negative finite binary32
is such a number, and subnormals need no case of their own. Log 9. -/
namespace Sys2Proof.Machine

/-- The number of units in 1.0. -/
abbrev one : Nat := 2 ^ 149

/-- The first value too large for binary32, `2^128`, in units. -/
abbrev overflow : Nat := 2 ^ 128 * one

/-- A non-negative binary32 value: `n·2^−149`, or +∞. -/
inductive Mag where
  | fin (n : Nat)
  | inf
deriving DecidableEq, Repr

/-- The integer nearest to `a / b`, ties to even. -/
def roundEven (a b : Nat) : Nat :=
  if 2 * (a % b) < b then a / b
  else if b < 2 * (a % b) then a / b + 1
  else if a / b % 2 = 0 then a / b
  else a / b + 1

/-- How many low bits of `n` binary32 does not hold: `n` keeps 24 bits. -/
def excess (n : Nat) : Nat := n.log2 - 23

/-- `a / b` units rounded to the nearest binary32, ties to even, before the test for overflow (rule R11).
Below `2^24` units every whole number of units is a binary32, so subnormals are kept. -/
def round32 (a b : Nat) : Nat :=
  roundEven a (b * 2 ^ excess (a / b)) * 2 ^ excess (a / b)

/-- `fl32` of `a / b` units: "Overflow gives +∞" (rule R11). -/
def fl32 (a b : Nat) : Mag :=
  if round32 a b < overflow then .fin (round32 a b) else .inf

/-- `x ⊗ k` for a finite `k > 0` (rule R11). -/
def Mag.times (x : Mag) (k : Nat) : Mag :=
  match x with
  | .inf => .inf
  | .fin n => fl32 (n * k) one

/-- `x ⊘ k` for a finite `k > 0` (rule R11). -/
def Mag.over (x : Mag) (k : Nat) : Mag :=
  match x with
  | .inf => .inf
  | .fin n => fl32 (n * one) k

/-- `max`, exact (rule R11). -/
def Mag.max (x y : Mag) : Mag :=
  match x, y with
  | .inf, _ => .inf
  | .fin _, .inf => .inf
  | .fin a, .fin b => .fin (Nat.max a b)

/-- `min(x, k)` for a finite `k`, exact; the result is finite (rule R11). -/
def Mag.atMost (x : Mag) (k : Nat) : Nat :=
  match x with
  | .inf => k
  | .fin n => Nat.min n k

/-- The fraction field, bits 22:0 (30_encoding.md rule R94). -/
def fractionField (u : Word) : Nat := (u.extractLsb' 0 23).toNat

/-- The biased exponent, bits 30:23 (rule R94). -/
def exponentField (u : Word) : Nat := (u.extractLsb' 23 8).toNat

/-- The sign, bit 31 (rule R94). -/
def signField (u : Word) : Bool := u.getLsbD 31

/-- A NaN pattern (rule R94). -/
def isNaN (u : Word) : Bool := decide (exponentField u = 0xFF ∧ fractionField u ≠ 0)

/-- The units of a finite pattern, its sign apart: a subnormal's fraction, or the 24-bit significand shifted
by the exponent (rule R94). -/
def finiteUnits (u : Word) : Nat :=
  if exponentField u = 0 then fractionField u
  else (2 ^ 23 + fractionField u) * 2 ^ (exponentField u - 1)

/-- `f32(u)` for a pattern that is neither a NaN nor negative (rule R11). -/
def magOf (u : Word) : Mag :=
  if exponentField u = 0xFF then .inf else .fin (finiteUnits u)

/-- `bits32` of a value of 24 significant bits (rules R11, R94): from `2^24` units on, the field of the
exponent counts the excess bits; below, the units are the pattern itself. -/
def bits32 : Mag → Word
  | .inf => 0x7F800000#32
  | .fin n => BitVec.ofNat 32 (2 ^ 23 * excess n + n / 2 ^ excess n)

/-- `ceil` of `n` units (rule R11). -/
def ceilUnits (n : Nat) : Nat := (n + (one - 1)) / one

/-- `roundT` of `n` units (rule R11): the nearest integer; an exact half goes up or to the even neighbour. -/
def roundT (tie : TieRule) (n : Nat) : Nat :=
  match tie with
  | .away => (2 * n + one) / (2 * one)
  | .even => roundEven n one

end Sys2Proof.Machine
end

