-- ==== Sys2Proof/Machine/Rgbm.lean ====
section
/-! DEFINITION. The exponent expansion of the decoder (41_rgbe_decoder.md rules R137, R138) and the RGBM
encoder (42_rgbm_encoder.md rules R150 to R163). -/
namespace Sys2Proof.Machine

/-- One channel of `expand`, for `E ≥ 1`: `fl32(byte · 2^(E−136))`; in units, `byte · 2^(E+13)`
(rule R137). -/
def expandChannel (byte : Byte) (e : Nat) : Word := bits32 (fl32 (byte.toNat * 2 ^ (e + 13)) 1)

/-- `expand(R, G, B, E)` (rule R137). -/
def expand (px : Rgbe) : Rgb :=
  if px.e = 0#8 then ⟨0#32, 0#32, 0#32⟩
  else ⟨expandChannel px.r px.e.toNat, expandChannel px.g px.e.toNat, expandChannel px.b px.e.toNat⟩

/-- `K6 = fl32(1/6)`, pattern 0x3E2AAAAB (42_rgbm_encoder.md). -/
def k6 : Nat := finiteUnits 0x3E2AAAAB#32

/-- `EPS = fl32(1e-6)`, pattern 0x358637BD. -/
def eps : Nat := finiteUnits 0x358637BD#32

/-- `sanitize(x)`: a NaN, and any pattern with the sign bit set, becomes +0.0 (rule R151). -/
def sanitize (u : Word) : Word := if isNaN u ∨ signField u then 0#32 else u

/-- `s[ch] = sanitize(c[ch]) ⊗ K6` (rules R151, R152). -/
def scaled (u : Word) : Mag := (magOf (sanitize u)).times k6

/-- `a_raw`, finite and in `[EPS, 1.0]` (rule R153). -/
def alphaRaw (r g b : Mag) : Nat := ((r.max g).max (b.max (.fin eps))).atMost one

/-- `k = ceil(a_raw ⊗ 255.0)` (rule R154). The product is at most 255, so it does not overflow. -/
def alphaStep (aRaw : Nat) : Nat := ceilUnits (round32 (aRaw * (255 * one)) one)

/-- `alpha = fl32(k) ⊘ 255.0` (rule R154). It is at most 1. -/
def alphaOf (k : Nat) : Nat := round32 (k * one * one) (255 * one)

/-- `clamp(roundT(x ⊗ 255.0), 0, 255)` for `x` in `[0, 1]` (rule R156). -/
def quantize (tie : TieRule) (x : Nat) : Byte :=
  BitVec.ofNat 8 (Nat.min (roundT tie (round32 (x * (255 * one)) one)) 255)

/-- `q[ch] = min(max(s ⊘ alpha, 0.0), 1.0)` (rule R155). -/
def normalised (s : Mag) (alpha : Nat) : Nat := (s.over alpha).atMost one

/-- `rgbm_encode(cr, cg, cb)` (rule R150). -/
def rgbmEncode (tie : TieRule) (cr cg cb : Word) : Rgbm :=
  let alpha := alphaOf (alphaStep (alphaRaw (scaled cr) (scaled cg) (scaled cb)))
  { r := quantize tie (normalised (scaled cr) alpha)
    g := quantize tie (normalised (scaled cg) alpha)
    b := quantize tie (normalised (scaled cb) alpha)
    m := quantize tie alpha }

end Sys2Proof.Machine
end

