-- ==== Sys2Proof/Machine/Tga.lean ====
section
/-! DEFINITION. The pixel pipeline and the TGA encoder (43_pipeline_tga.md rules R170 to R179; the header
bytes of 30_encoding.md rules R91 to R93). -/
namespace Sys2Proof.Machine

/-- `align_up(n, a)` (rule R171). -/
def alignUp (n a : Nat) : Nat := (n + (a - 1)) / a * a

/-- Row `y` of a raster `w` pixels wide: the indexes `y·w + x` (10_state.md rule R40). -/
def rasterRow (w : Nat) (raster : List Rgb) (y : Nat) : List Rgb := (raster.drop (y * w)).take w

/-- The four bytes of a pixel in the packed raster and in the file: b, g, r, m (rules R93, R170). -/
def pixelBytes (tie : TieRule) (c : Rgb) : List Byte :=
  let o := rgbmEncode tie c.r c.g c.b
  [o.b, o.g, o.r, o.m]

/-- Row `y` of the packed raster: its pixels and the padding up to the stride (rules R170, R171). -/
def packedRow (p : Params) (seed w stride : Nat) (raster : List Rgb) (y : Nat) : List Byte :=
  (rasterRow w raster y).flatMap (pixelBytes p.tie) ++
    (List.range (stride - 4 * w)).map fun i => Config.padByte seed (y * stride + 4 * w + i)

/-- The rows worker `i` of `workers` owns: "a disjoint slice", fixed before any work begins
(60_exceptions.md rule R214; the slices are the model's choice, log 13). -/
def workerRows (workers h i : Nat) : List Nat :=
  let slice := (h + (workers - 1)) / workers
  ((List.range slice).map fun j => i * slice + j).filter fun y => decide (y < h)

/-- The rows in the order of the workers' slices. -/
def allWorkerRows (workers h : Nat) : List Nat := (List.range workers).flatMap (workerRows workers h)

/-- `pixel_apply(hdr)` (rule R170), carried out by the workers. -/
def pixelApply (p : Params) (seed : Nat) (img : HdrImage) : PackedImage :=
  let stride := alignUp (4 * img.w) p.strideAlign
  { w := img.w, h := img.h, stride := stride
    bytes := (allWorkerRows p.workers img.h).flatMap (packedRow p seed img.w stride img.raster) }

/-- The low byte, then the high byte, of a 16-bit field (rules R68, R92). -/
def littleEndian16 (n : Nat) : List Byte := [BitVec.ofNat 8 n, BitVec.ofNat 8 (n / 256)]

/-- `tga_header(W, H)` (30_encoding.md rule R92). -/
def tgaHeader (w h : Nat) : List Byte :=
  [0x00#8, 0x00#8, 0x02#8] ++ littleEndian16 0 ++ littleEndian16 0 ++ [0x00#8] ++
    littleEndian16 0 ++ littleEndian16 0 ++ littleEndian16 w ++ littleEndian16 h ++ [0x20#8, 0x28#8]

/-- The length of the file, `18 + 4·W·H` (rules R91, R175). -/
def tgaSize (w h : Nat) : Nat := Config.tgaHeaderLength + 4 * w * h

/-- `tga_write(pk)` (rules R175, R177): the capacity is tested before any byte is produced, and the padding
is skipped. -/
def tgaWrite (p : Params) (pk : PackedImage) : Except Failure (List Byte) :=
  if p.outCap < tgaSize pk.w pk.h then .error ⟨.outCapacity, 0⟩
  else .ok (tgaHeader pk.w pk.h ++
    (List.range pk.h).flatMap fun y => (pk.bytes.drop (y * pk.stride)).take (4 * pk.w))

end Sys2Proof.Machine
end

