-- ==== Sys2Proof/Machine/Ops.lean ====
section
/-! DEFINITION. The named operations over memory, status and the sequencer: writes that keep a memory's
form, the issue rule of commands (40_commands.md rules R110, R114), the entry of a failure and its
acknowledgement (60_exceptions.md rules R193, R196), the completions, and what a token does to the
sequencer (41_rgbe_decoder.md rules R129 to R136). -/
namespace Sys2Proof.Machine

/-! ### Memory -/

/-- The form every memory has: strictly rising addresses. What an unlisted address reads as is no value, so
no entry equals it. -/
def Memory.wf : Memory → Bool
  | [] => true
  | [_] => true
  | c :: d :: rest => decide (c.1 < d.1) && Memory.wf (d :: rest)

/-- Writes byte `b` at `a`, in its place in the order. -/
def Memory.store (m : Memory) (a : Nat) (b : Byte) : Memory :=
  match m with
  | [] => [(a, b)]
  | c :: rest =>
    if a < c.1 then (a, b) :: c :: rest
    else if a = c.1 then (a, b) :: rest
    else c :: Memory.store rest a b

/-- A file's bytes at consecutive addresses from `a`. -/
def cellsFrom (a : Nat) : List Byte → Memory
  | [] => []
  | b :: rest => (a, b) :: cellsFrom (a + 1) rest

/-! ### Status, failure and completion -/

/-- The host broke an access rule: `STATUS.VIOL <- 1` and nothing else (20_memory.md rule R66, 40_commands.md
rules R114, R115). -/
def State.violate (s : State) : State := { s with viol := true }

/-- The busy test of rule R110 comes first: while BUSY a command is dropped (rule R114). -/
def State.issue (s : State) (effect : State → State) : Host.Outcome State Fault Refusal :=
  if s.busy then .next s.violate else .next (effect s)

/-- The return from a failure: ERR, DONE, ERRINFO and ERRPOS are cleared, by CLEAR or by the issue of the next
RUN or ENCODE_PIXEL (60_exceptions.md rule R196; 40_commands.md rules R111, R112, R116). -/
def State.acknowledge (s : State) : State :=
  { s with done := false, err := false, errinfo := 0#32, errpos := 0#32 }

/-- The accepted width, or 0 (10_state.md rule R30). -/
def dimsWidth : Option (Nat × Nat) → BitVec 16
  | none => 0#16
  | some (w, _) => BitVec.ofNat 16 w

/-- The accepted height, or 0 (rule R31). -/
def dimsHeight : Option (Nat × Nat) → BitVec 16
  | none => 0#16
  | some (_, h) => BitVec.ofNat 16 h

/-- `fail(kind, stage, detail, pos)`: the entry of a failure (60_exceptions.md rule R193). OUT becomes
unspecified (20_memory.md rule R67). -/
def State.fail (s : State) (dims : Option (Nat × Nat)) (why : Failure) : State :=
  { s with
    err := true, done := false, errinfo := why.detail.errinfo, errpos := BitVec.ofNat 32 why.pos
    outLen := 0#32, width := dimsWidth dims, height := dimsHeight dims, job := none, outMem := [] }

/-- The successful completion of a RUN (40_commands.md rule R111): the file is OUT from 0, the bytes above it
are unspecified (20_memory.md rule R67). -/
def State.publishFile (s : State) (w h : Nat) (file : List Byte) : State :=
  { s with
    width := BitVec.ofNat 16 w, height := BitVec.ofNat 16 h, outMem := cellsFrom 0 file
    outLen := BitVec.ofNat 32 file.length, done := true, job := none }

/-- The completion of an ENCODE_PIXEL (40_commands.md rule R112). -/
def State.publishPixel (s : State) (px : Rgbm) : State :=
  { s with pixOut := px.word, done := true, job := none }

/-! ### The sequencer -/

/-- The plane after `k` in the order R, G, B, E, if there is one (rules R87, R131). -/
def Plane.next : Plane → Option Plane
  | .r => some .g
  | .g => some .b
  | .b => some .e
  | .e => none

/-- The bytes filled in a plane. -/
def PlaneBuf.get (buf : PlaneBuf) : Plane → List Byte
  | .r => buf.r
  | .g => buf.g
  | .b => buf.b
  | .e => buf.e

/-- Fills more bytes of a plane. -/
def PlaneBuf.append (buf : PlaneBuf) (k : Plane) (bytes : List Byte) : PlaneBuf :=
  match k with
  | .r => { buf with r := buf.r ++ bytes }
  | .g => { buf with g := buf.g ++ bytes }
  | .b => { buf with b := buf.b ++ bytes }
  | .e => { buf with e := buf.e ++ bytes }

/-- Four empty planes. -/
def PlaneBuf.empty : PlaneBuf := ⟨[], [], [], []⟩

/-- Pixel `x` is the quadruplet of the four planes at `x` (rule R135). -/
def zipPlanes : List Byte → List Byte → List Byte → List Byte → List Rgbe
  | r :: rs, g :: gs, b :: bs, e :: es => ⟨r, g, b, e⟩ :: zipPlanes rs gs bs es
  | _, _, _, _ => []

/-- The fill count `j` (10_state.md rule R42). -/
def Seq.fill (q : Seq) : Nat :=
  match q.phase with
  | .start => 0
  | .flat _ => 0
  | .planes k buf => (buf.get k).length

/-- The sequencer before the first scanline: the resolution line is accepted and the cursor is behind it
(rule R127). -/
def Seq.first (a : Accepted) : Seq :=
  { w := a.w, h := a.h, p := a.next, y := 0, phase := .start, raster := [] }

/-- A raise inside the scanlines: the dimensions stay accepted (rules R127, R139). -/
def Seq.raise (q : Seq) (why : Failure) : RunStage := .failed (some (q.w, q.h)) why

/-- A scanline is complete: its pixels are expanded into the raster, and the next scanline begins, or the
raster is complete (rules R120, R128, R140). The cursor of `q` is already behind the scanline. -/
def Seq.finishRow (q : Seq) (row : List Rgbe) : RunStage :=
  if q.y + 1 < q.h then
    .scanlines { q with y := q.y + 1, phase := .start, raster := q.raster ++ row.map expand }
  else .decoded ⟨q.w, q.h, q.raster ++ row.map expand⟩

/-- One flat pixel of a scanline that holds `row` so far (rule R136). `L` is the input's length. -/
def Seq.takePixel (q : Seq) (L : Nat) (row : List Rgbe) (px : Rgbe) : RunStage :=
  if L < q.p + 4 then q.raise ⟨.eofFlat, L⟩
  else if row.length + 1 < q.w then .scanlines { q with p := q.p + 4, phase := .flat (row ++ [px]) }
  else Seq.finishRow { q with p := q.p + 4 } (row ++ [px])

/-- A marker at the start of a scanline (rule R131). -/
def Seq.takeMarker (q : Seq) (L : Nat) (wm : Nat) : RunStage :=
  if L < q.p + 4 then q.raise ⟨.eofFlat, L⟩
  else if wm ≠ q.w then q.raise ⟨.markerWidth, q.p⟩
  else .scanlines { q with p := q.p + 4, phase := .planes .r PlaneBuf.empty }

/-- What a packet of `n` values and `size` bytes raises, if anything: the overrun test comes first
(rules R133, R134; 60_exceptions.md rule R195). -/
def Seq.packetError (q : Seq) (L n size : Nat) : Option Failure :=
  if q.w < q.fill + n then some ⟨.rleOverrun, q.p⟩
  else if L < q.p + size then some ⟨.eofRle, L⟩
  else none

/-- The values of a packet enter plane `k`; a plane ends the moment `j = W`, and plane E ends the scanline
(rules R131, R132, R135). The cursor of `q` is already behind the packet. -/
def Seq.fillPlane (q : Seq) (k : Plane) (buf : PlaneBuf) (values : List Byte) : RunStage :=
  let buf' := buf.append k values
  if (buf'.get k).length < q.w then .scanlines { q with phase := .planes k buf' }
  else
    match k.next with
    | some k' => .scanlines { q with phase := .planes k' buf' }
    | none => q.finishRow (zipPlanes buf'.r buf'.g buf'.b buf'.e)

/-- A packet of `size` bytes with its values, in plane `k` (rules R132 to R134). -/
def Seq.takePacket (q : Seq) (L : Nat) (k : Plane) (buf : PlaneBuf) (size : Nat) (values : List Byte) :
    RunStage :=
  match q.packetError L values.length size with
  | some why => q.raise why
  | none => Seq.fillPlane { q with p := q.p + size } k buf values

/-- What is raised when the input ends before an instruction can be read (rules R129, R132 to R134, R136). -/
def Seq.rejected (q : Seq) (L : Nat) : Reject → Failure
  | .shortPixel => ⟨.eofFlat, L⟩
  | .noCountByte => ⟨.eofRle, L⟩
  | .shortRun n => if q.w < q.fill + n then ⟨.rleOverrun, q.p⟩ else ⟨.eofRle, L⟩
  | .shortLiteral n => if q.w < q.fill + n then ⟨.rleOverrun, q.p⟩ else ⟨.eofRle, L⟩

/-- Where the sequencer reads its next instruction (rules R129, R132, R136). -/
def Seq.source (q : Seq) (inb : List Byte) : Source :=
  match q.phase with
  | .start => .rowStart (Config.rleEligible q.w) (inb.drop q.p)
  | .flat _ => .flat (inb.drop q.p)
  | .planes _ _ => .packet (inb.drop q.p)

/-! ### The stage of a RUN in flight -/

/-- The state with a RUN in flight over `inb` at `stage`. Nothing the host sees depends on the stage. -/
def State.setStage (s : State) (inb : List Byte) (stage : RunStage) : State :=
  { s with job := some (.run inb stage) }

/-- Runs a token that is read inside a plane (rule R132). -/
def State.inPlane (s : State) (f : List Byte → Seq → Plane → PlaneBuf → RunStage) :
    Host.Outcome State Fault Refusal :=
  match s.job with
  | some (.run inb (.scanlines q)) =>
    match q.phase with
    | .planes k buf => .next (s.setStage inb (f inb q k buf))
    | .start => .fault .tokenOutOfContext
    | .flat _ => .fault .tokenOutOfContext
  | _ => .fault .tokenOutOfContext

/-- Runs a token that is read at the start of a scanline or inside a flat one, with the pixels the scanline
holds so far (rules R129, R136). -/
def State.inRow (s : State) (f : List Byte → Seq → List Rgbe → RunStage) :
    Host.Outcome State Fault Refusal :=
  match s.job with
  | some (.run inb (.scanlines q)) =>
    match q.phase with
    | .start => .next (s.setStage inb (f inb q []))
    | .flat row => .next (s.setStage inb (f inb q row))
    | .planes _ _ => .fault .tokenOutOfContext
  | _ => .fault .tokenOutOfContext

/-- Runs a token that is read only at the start of a scanline of RLE-eligible width (rules R129, R130). -/
def State.atRowStart (s : State) (f : List Byte → Seq → RunStage) : Host.Outcome State Fault Refusal :=
  match s.job with
  | some (.run inb (.scanlines q)) =>
    match q.phase with
    | .start =>
      if Config.rleEligible q.w then .next (s.setStage inb (f inb q)) else .fault .tokenOutOfContext
    | .flat _ => .fault .tokenOutOfContext
    | .planes _ _ => .fault .tokenOutOfContext
  | _ => .fault .tokenOutOfContext

end Sys2Proof.Machine
end

