-- ==== Sys2Proof/Machine/Commands.lean ====
section
/-! DEFINITION. The commands NOP, RUN, ENCODE_PIXEL and CLEAR at their issue (40_commands.md rules R110 to
R116). What RUN and ENCODE_PIXEL do at their completion is the block's own step (10_state.md rule R22),
in Machine/Block.lean. -/
namespace Sys2Proof.Machine

/-- NOP: nothing (rule R113). -/
def execNop (s : State) : Host.Outcome State Fault Refusal := s.issue fun s => s

/-- RUN at issue (rule R111): BUSY, the report and the result registers cleared, the input captured. From
here on OUT is unspecified (70_reset_and_hazards.md rule R224). -/
def execRun (s : State) : Host.Outcome State Fault Refusal :=
  s.issue fun s =>
    { s.acknowledge with
      width := 0#16, height := 0#16, outLen := 0#32, outMem := [], outSeed := s.draws
      draws := s.draws + 1, job := some (.run s.captureIn .header) }

/-- ENCODE_PIXEL at issue (rule R112): BUSY, the report cleared, the three words captured. -/
def execEncodePixel (s : State) : Host.Outcome State Fault Refusal :=
  s.issue fun s => { s.acknowledge with job := some (.encode s.pixR s.pixG s.pixB) }

/-- CLEAR (rule R116). -/
def execClear (s : State) : Host.Outcome State Fault Refusal :=
  s.issue fun s => { s.acknowledge with viol := false }

end Sys2Proof.Machine
end

