-- ==== Sys2Proof/Machine/Reserved.lean ====
section
/-! DEFINITION. The reserved opcodes 0x04 to 0xFF, one definition a row of the table: `STATUS.VIOL <- 1` and
nothing else (30_encoding.md rule R81, 40_commands.md rule R115; while BUSY rule R114 says the same). -/
namespace Sys2Proof.Machine

/-- Opcodes 0x04 to 0x07 (rule R115). -/
def execReserved0407 (s : State) : Host.Outcome State Fault Refusal := s.issue State.violate

/-- Opcodes 0x08 to 0x0F (rule R115). -/
def execReserved080F (s : State) : Host.Outcome State Fault Refusal := s.issue State.violate

/-- Opcodes 0x10 to 0x1F (rule R115). -/
def execReserved101F (s : State) : Host.Outcome State Fault Refusal := s.issue State.violate

/-- Opcodes 0x20 to 0x3F (rule R115). -/
def execReserved203F (s : State) : Host.Outcome State Fault Refusal := s.issue State.violate

/-- Opcodes 0x40 to 0x7F (rule R115). -/
def execReserved407F (s : State) : Host.Outcome State Fault Refusal := s.issue State.violate

/-- Opcodes 0x80 to 0xFF (rule R115). -/
def execReserved80FF (s : State) : Host.Outcome State Fault Refusal := s.issue State.violate

end Sys2Proof.Machine
end

