-- ==== Sys2Proof/Machine/Stream.lean ====
section
/-! DEFINITION. The tokens of the RGBE stream (41_rgbe_decoder.md rules R129 to R136). Each acts on the hidden
sequencer of the RUN in flight, and ends in the next stage, which is a failed one where the token's rule
raises an error. -/
namespace Sys2Proof.Machine

/-- SCANLINE_MARKER (rule R131). -/
def execScanlineMarker (h : BitVec 7) (l : BitVec 8) (s : State) : Host.Outcome State Fault Refusal :=
  s.atRowStart fun inb q => q.takeMarker inb.length (markerWidth h l)

/-- RLE_RUN: `n` copies of `v` (rule R133). -/
def execRleRun (n : BitVec 7) (v : Byte) (s : State) : Host.Outcome State Fault Refusal :=
  s.inPlane fun inb q k buf => q.takePacket inb.length k buf 2 (List.replicate n.toNat v)

/-- RLE_LITERAL: the bytes verbatim (rule R134). -/
def execRleLiteral (bytes : List Byte) (s : State) : Host.Outcome State Fault Refusal :=
  s.inPlane fun inb q k buf => q.takePacket inb.length k buf (1 + bytes.length) bytes

/-- RLE_LITERAL_128: 128 bytes verbatim (rule R134). -/
def execRleLiteral128 (bytes : List Byte) (s : State) : Host.Outcome State Fault Refusal :=
  s.inPlane fun inb q k buf => q.takePacket inb.length k buf (1 + bytes.length) bytes

/-- FLAT_PIXEL (rule R136). -/
def execFlatPixel (r g b e : Byte) (s : State) : Host.Outcome State Fault Refusal :=
  s.inRow fun inb q row => q.takePixel inb.length row ⟨r, g, b, e⟩

end Sys2Proof.Machine
end

