-- ==== Sys2Proof/Machine/Dispatch.lean ====
section
/-! DEFINITION. The meaning of every instruction, one arm a constructor. -/
namespace Sys2Proof.Machine

def exec (i : Instr) (s : State) : Host.Outcome State Fault Refusal :=
  match i with
  | .nop _ => Sys2Proof.Machine.execNop s
  | .run _ => Sys2Proof.Machine.execRun s
  | .encodePixel _ => Sys2Proof.Machine.execEncodePixel s
  | .clear _ => Sys2Proof.Machine.execClear s
  | .reserved0407 _ _ => Sys2Proof.Machine.execReserved0407 s
  | .reserved080F _ _ => Sys2Proof.Machine.execReserved080F s
  | .reserved101F _ _ => Sys2Proof.Machine.execReserved101F s
  | .reserved203F _ _ => Sys2Proof.Machine.execReserved203F s
  | .reserved407F _ _ => Sys2Proof.Machine.execReserved407F s
  | .reserved80FF _ _ => Sys2Proof.Machine.execReserved80FF s
  | .scanlineMarker h l => Sys2Proof.Machine.execScanlineMarker h l s
  | .rleRun n v => Sys2Proof.Machine.execRleRun n v s
  | .rleLiteral bytes => Sys2Proof.Machine.execRleLiteral bytes s
  | .rleLiteral128 bytes => Sys2Proof.Machine.execRleLiteral128 bytes s
  | .flatPixel r g b e => Sys2Proof.Machine.execFlatPixel r g b e s

end Sys2Proof.Machine
end

