-- ==== Sys2Proof/Machine/Block.lean ====
section
/-! DEFINITION. The block's own steps: a hidden step of a RUN in flight, the completion (10_state.md rule
R22), and the reset step (70_reset_and_hazards.md rule R220); and the placing of a table word where the
machine reads its next instruction. -/
namespace Sys2Proof.Machine

/-- The header and the resolution line are read (41_rgbe_decoder.md rules R120 to R127). -/
def headerStage (p : Params) (inb : List Byte) : RunStage :=
  match parseHeader p inb with
  | .error why => .failed none why
  | .ok a => .scanlines (Seq.first a)

/-- The packed raster is written to a file (43_pipeline_tga.md rules R175, R177). -/
def writeStage (p : Params) (pk : PackedImage) : RunStage :=
  match tgaWrite p pk with
  | .error why => .failed (some (pk.w, pk.h)) why
  | .ok file => .written pk.w pk.h file

/-- One hidden step of the block: the header, one token of the stream, the pixel pipeline, or the writer, in
that order (20_memory.md rule R73). A RUN that is ready to complete, an ENCODE_PIXEL and an idle block have
no hidden step left. -/
def tick (s : State) : Host.Outcome State Fault Refusal :=
  match s.job with
  | none => .next s
  | some (.encode _ _ _) => .next s
  | some (.run inb stage) =>
    match stage with
    | .header => .next (s.setStage inb (headerStage s.params inb))
    | .scanlines q =>
      match decode (q.source inb) with
      | .ok i => exec i s
      | .error r => .next (s.setStage inb (q.raise (q.rejected inb.length r)))
    | .decoded img => .next (s.setStage inb (.packed (pixelApply s.params s.outSeed img)))
    | .packed pk => .next (s.setStage inb (writeStage s.params pk))
    | .written _ _ _ => .next s
    | .failed _ _ => .next s

/-- At most `fuel` hidden steps. -/
def settle (fuel : Nat) (s : State) : Host.Outcome State Fault Refusal :=
  match fuel with
  | 0 => .next s
  | fuel + 1 =>
    match tick s with
    | .next s' => settle fuel s'
    | .fault r => .fault r
    | .refused r => .refused r

/-- The results of a RUN whose hidden steps are done become visible at once (rules R22, R111, R193). -/
def publish (s : State) : Host.Outcome State Fault Refusal :=
  match s.job with
  | some (.run _ (.written w h file)) => .next (s.publishFile w h file)
  | some (.run _ (.failed dims why)) => .next (s.fail dims why)
  | _ => .fault .unsettled

/-- More hidden steps than a RUN over `inb` can take: the header, a token for each byte, the pixel pipeline
and the writer, since a token reads at least one byte (rule R141; log 11). -/
def settleBound (inb : List Byte) : Nat := inb.length + 4

/-- The completion, one step of the block that is enabled only in BUSY (rule R22): whatever hidden steps are
left are done, and the results are published. In IDLE it does nothing. -/
def complete (s : State) : Host.Outcome State Fault Refusal :=
  match s.job with
  | none => .next s
  | some (.encode cr cg cb) => .next (s.publishPixel (rgbmEncode s.params.tie cr cg cb))
  | some (.run inb _) =>
    match settle (settleBound inb) s with
    | .next s' => publish s'
    | .fault r => .fault r
    | .refused r => .refused r

/-- The reset step (rule R220): every piece of the block's state takes its reset value, and a command in flight
is abandoned. The unspecified bytes of IN and OUT are new ones. What is the host's, the moves still to come
and the result of its last read, stays (log 14). -/
def resetStep (s : State) : State :=
  { State.resetWith s.params with
    script := s.script, resp := s.resp, inSeed := s.draws, outSeed := s.draws + 1
    draws := s.draws + 2 }

/-- The width of the image in which a token at the start of a scanline is placed: the marker's own, if it is
RLE-eligible, else the least eligible width (log 8). -/
def placedWidth (rest : List Byte) : Nat :=
  match decodeRowStart true rest with
  | .ok (.scanlineMarker h l) => if Config.rleEligible (markerWidth h l) then markerWidth h l else 8
  | _ => 8

/-- A RUN in flight over `inb`, `w` pixels wide and one row high, at its first byte. -/
def State.placeRun (s : State) (inb : List Byte) (w : Nat) (phase : Phase) : State :=
  { s with
    job := some (.run inb (.scanlines { w := w, h := 1, p := 0, y := 0, phase := phase, raster := [] }))
    script := .tick :: s.script }

/-- An instruction placed where `step` reads its next one: a command word is the host's next write to CMD, and
a token is the next byte of a RUN in flight whose block moves next. DESIGN CHOICE (log 8). -/
def State.place (s : State) : Source → State
  | .command w => { s with script := .host (.regWrite 0 4 w) :: s.script }
  | .rowStart _ rest => s.placeRun rest (placedWidth rest) .start
  | .flat rest => s.placeRun rest 1 .start
  | .packet rest => s.placeRun rest 32767 (.planes .r PlaneBuf.empty)

end Sys2Proof.Machine
end

