-- ==== Sys2Proof/Machine/Bus.lean ====
section
/-! DEFINITION. The host's accesses (20_memory.md rules R60 to R69). Each is one indivisible step. -/
namespace Sys2Proof.Machine

/-- A read that answers an unspecified word: a fresh free value each time (10_state.md rule R39; log 7). -/
def State.drawWord (s : State) : State :=
  { s with resp := .word (Config.freeWord s.draws), draws := s.draws + 1 }

/-- A read of OUT that answers an unspecified byte (20_memory.md rule R67; log 7). -/
def State.drawByte (s : State) (a : Nat) : State :=
  { s with resp := .byte (Config.freeByte s.draws a), draws := s.draws + 1 }

/-- A register read: the register's value, or an unspecified word for a result register while BUSY (rules R39,
R69). -/
def readReg (r : Reg) (s : State) : State :=
  if s.busy && r.isResult then s.drawWord else { s with resp := .word (s.regValue r) }

/-- A write that is dropped while BUSY, which sets VIOL (rule R66). -/
def State.unlessBusy (s : State) (store : State → State) : State :=
  if s.busy then s.violate else store s

/-- A register write. To CMD it is the issue of a command (rule R25); to IN_LEN it clamps (rule R29); to IRQ_EN
it is never dropped (rules R35, R66); to a read-only register it is ignored (rule R24). -/
def writeReg (r : Reg) (v : Word) (s : State) : Host.Outcome State Fault Refusal :=
  match r with
  | .cmd => exec (decodeCommand v) s
  | .inLen => .next (s.unlessBusy fun s => { s with inLen := BitVec.ofNat 32 (Nat.min v.toNat s.params.inCap) })
  | .pixR => .next (s.unlessBusy fun s => { s with pixR := v })
  | .pixG => .next (s.unlessBusy fun s => { s with pixG := v })
  | .pixB => .next (s.unlessBusy fun s => { s with pixB := v })
  | .irqEn => .next { s with irqEn := v.getLsbD 0 }
  | .status => .next s
  | .errinfo => .next s
  | .errpos => .next s
  | .width => .next s
  | .height => .next s
  | .outLen => .next s
  | .pixOut => .next s
  | .capDim => .next s
  | .capIn => .next s
  | .capOut => .next s

/-- The register that a 32-bit access at an offset reaches (rule R62). -/
def regAt (off bytes : Nat) : Option Reg := if bytes = 4 then Reg.ofOffset off else none

/-- A one-byte access below the capacity of its space (rule R63). -/
def byteAt (cap a bytes : Nat) : Bool := decide (bytes = 1 ∧ a < cap)

/-- An access of the host (rule R60). -/
def hostAccess (x : HostAccess) (s : State) : Host.Outcome State Fault Refusal :=
  match x with
  | .regRead off bytes =>
    match regAt off bytes with
    | some r => .next (readReg r s)
    | none => .refused (.registerAccess off bytes)
  | .regWrite off bytes v =>
    match regAt off bytes with
    | some r => writeReg r v s
    | none => .refused (.registerAccess off bytes)
  | .inRead a bytes =>
    if byteAt s.params.inCap a bytes then .next { s with resp := .byte (s.inByte a) }
    else .refused (.inAccess a bytes)
  | .inWrite a bytes b =>
    if byteAt s.params.inCap a bytes then
      .next (s.unlessBusy fun s => { s with inMem := Memory.store s.inMem a b })
    else .refused (.inAccess a bytes)
  | .outRead a bytes =>
    if byteAt s.params.outCap a bytes then
      .next (if s.busy then s.drawByte a else { s with resp := .byte (s.outByte a) })
    else .refused (.outAccess a bytes)
  | .outWrite a bytes _ => .refused (.outWriteAccess a bytes)

/-- One move of the script. -/
def move (e : Event) (s : State) : Host.Outcome State Fault Refusal :=
  match e with
  | .host x => hostAccess x s
  | .tick => tick s
  | .complete => complete s
  | .reset => .next (resetStep s)

/-- What happens when the script says nothing more: a busy block completes, since a completion is always
eventually taken (10_state.md rule R22), and an idle block keeps its state (60_exceptions.md rule R212;
log 1). -/
def quiet (s : State) : Host.Outcome State Fault Refusal := complete s

end Sys2Proof.Machine
end

