-- ==== Sys2Proof/Machine/Step.lean ====
section
/-! DEFINITION. One step of the machine: the next move of the script, in the one total order of 20_memory.md
rule R70. -/
namespace Sys2Proof.Machine

/-- The step. The move is taken off the script before it is made. -/
def step (s : State) : Host.Outcome State Fault Refusal :=
  match s.script with
  | [] => quiet s
  | e :: rest => move e { s with script := rest }

/-- `s` with a table word placed where `step` reads its next instruction (log 8). -/
def State.withFetchWord (s : State) (nbits w : Nat) : State := s.place (Sys2Proof.tableSource nbits w)

end Sys2Proof.Machine
end

