-- ==== Sys2Proof/Machine/RgbeDecode.lean ====
section
/-! DEFINITION. `rgbe_decode` and RUN's completion as functions of the captured input alone, line by line from
the pseudocode of 41_rgbe_decoder.md rules R120 to R136 and 40_commands.md rule R111. The machine itself
works token by token (Machine/Stream.lean, Machine/Block.lean); the statements say that the two agree. -/
namespace Sys2Proof.Machine

/-- The loop of `decode_plane` (rules R132 to R134), from cursor `p` with `out` filled. Each round reads a byte
(rule R141), so `inb.length + 1` rounds are enough. -/
def decodePlaneLoop (inb : List Byte) (w : Nat) : Nat → Nat → List Byte → Except Failure (List Byte × Nat)
  | 0, _, _ => .error ⟨.eofRle, inb.length⟩
  | rounds + 1, p, out =>
    if w ≤ out.length then .ok (out, p)
    else
      match inb[p]? with
      | none => .error ⟨.eofRle, inb.length⟩
      | some c =>
        if 128 < c.toNat then
          if w < out.length + (c.toNat - 128) then .error ⟨.rleOverrun, p⟩
          else
            match inb[p + 1]? with
            | none => .error ⟨.eofRle, inb.length⟩
            | some v => decodePlaneLoop inb w rounds (p + 2) (out ++ List.replicate (c.toNat - 128) v)
        else if w < out.length + c.toNat then .error ⟨.rleOverrun, p⟩
        else if inb.length < p + 1 + c.toNat then .error ⟨.eofRle, inb.length⟩
        else decodePlaneLoop inb w rounds (p + 1 + c.toNat) (out ++ (inb.drop (p + 1)).take c.toNat)

/-- `decode_plane(inb, p, W)` (rule R132). -/
def decodePlane (inb : List Byte) (w p : Nat) : Except Failure (List Byte × Nat) :=
  decodePlaneLoop inb w (inb.length + 1) p []

/-- `decode_rle_scanline(inb, p, W)` behind its marker (rules R131, R135). -/
def decodePlanes (inb : List Byte) (w p : Nat) : Except Failure (List Rgbe × Nat) :=
  (decodePlane inb w p).bind fun (r, p) =>
  (decodePlane inb w p).bind fun (g, p) =>
  (decodePlane inb w p).bind fun (b, p) =>
  (decodePlane inb w p).bind fun (e, p) =>
  .ok (zipPlanes r g b e, p)

/-- `decode_flat`: `n` more pixels (rule R136). -/
def decodeFlatPixels (inb : List Byte) : Nat → Nat → List Rgbe → Except Failure (List Rgbe × Nat)
  | 0, p, row => .ok (row, p)
  | n + 1, p, row =>
    match inb.drop p with
    | r :: g :: b :: e :: _ => decodeFlatPixels inb n (p + 4) (row ++ [⟨r, g, b, e⟩])
    | _ => .error ⟨.eofFlat, inb.length⟩

/-- `decode_scanline(inb, p, W)` (rules R129 to R131). -/
def decodeScanline (inb : List Byte) (w p : Nat) : Except Failure (List Rgbe × Nat) :=
  if Config.rleEligible w then
    match inb.drop p with
    | b0 :: b1 :: b2 :: b3 :: _ =>
      if b0.toNat = 2 ∧ b1.toNat = 2 ∧ b2.toNat < 128 then
        if b2.toNat * 256 + b3.toNat = w then decodePlanes inb w (p + 4) else .error ⟨.markerWidth, p⟩
      else decodeFlatPixels inb w p []
    | _ => .error ⟨.eofFlat, inb.length⟩
  else decodeFlatPixels inb w p []

/-- The loop over the scanlines (rules R120, R128): `n` more, behind the rows in `raster`. -/
def decodeScanlines (inb : List Byte) (w : Nat) : Nat → Nat → List Rgb → Except Failure (List Rgb)
  | 0, _, raster => .ok raster
  | n + 1, p, raster =>
    (decodeScanline inb w p).bind fun (row, p) => decodeScanlines inb w n p (raster ++ row.map expand)

/-- `rgbe_decode(inb)` (rule R120): the dimensions if the resolution line was accepted, and the image or the
error. -/
def rgbeDecode (p : Params) (inb : List Byte) : Option (Nat × Nat) × Except Failure HdrImage :=
  match parseHeader p inb with
  | .error why => (none, .error why)
  | .ok a =>
    (some (a.w, a.h), (decodeScanlines inb a.w a.h a.next []).bind fun raster => .ok ⟨a.w, a.h, raster⟩)

/-- The file of an image, pixel after pixel (43_pipeline_tga.md rule R176). -/
def imageFile (tie : TieRule) (img : HdrImage) : List Byte :=
  tgaHeader img.w img.h ++ img.raster.flatMap (pixelBytes tie)

/-- What a RUN over `inb` reports: the accepted dimensions, and the file or the error (40_commands.md rule
R111). It names neither the workers nor the stride. -/
def runResult (p : Params) (inb : List Byte) : Option (Nat × Nat) × Except Failure (List Byte) :=
  match rgbeDecode p inb with
  | (dims, .error why) => (dims, .error why)
  | (dims, .ok img) =>
    (dims, if p.outCap < tgaSize img.w img.h then .error ⟨.outCapacity, 0⟩ else .ok (imageFile p.tie img))

/-- The completion of a RUN with this result (rules R111, R193). -/
def State.report (s : State) : Option (Nat × Nat) × Except Failure (List Byte) → State
  | (dims, .error why) => s.fail dims why
  | (dims, .ok file) =>
    { s with
      width := dimsWidth dims, height := dimsHeight dims, outMem := cellsFrom 0 file
      outLen := BitVec.ofNat 32 file.length, done := true, job := none }

end Sys2Proof.Machine
end

