-- ==== Sys2Proof/Safety.lean ====
section
/-! DEFINITION. What holds in every state a block reaches, and the words the statements use. -/
namespace Sys2Proof.Machine

/-- Every detail of 60_exceptions.md rule R191. -/
def Detail.all : List Detail :=
  [.noBlankLine, .resUnterminated, .resGrammar, .dimZero, .dimTooLarge, .eofFlat, .eofRle, .rleOverrun,
   .markerWidth, .orientation, .outCapacity]

/-- DONE and ERR are never both 1, and both are 0 while BUSY (10_state.md rule R26). -/
abbrev State.StatusOk (s : State) : Prop :=
  ¬(s.done = true ∧ s.err = true) ∧ (s.busy = true → s.done = false ∧ s.err = false)

/-- ERRINFO and ERRPOS are 0 unless ERR is 1, and then ERRINFO is a pair of rule R191's table. -/
abbrev State.ReportOk (s : State) : Prop :=
  (s.err = false → s.errinfo = 0#32 ∧ s.errpos = 0#32) ∧
  (s.err = true → s.errinfo ∈ Detail.all.map Detail.errinfo)

/-- Both memories have their form and lie within their capacities (20_memory.md rule R61), and IN_LEN is at
most IN_CAP (10_state.md rule R29). -/
abbrev State.MemoryOk (s : State) : Prop :=
  Memory.wf s.inMem = true ∧ Memory.wf s.outMem = true ∧
  (∀ c ∈ s.inMem, c.1 < s.params.inCap) ∧ (∀ c ∈ s.outMem, c.1 < s.params.outCap) ∧
  s.inLen.toNat ≤ s.params.inCap

/-- OUT holds exactly the bytes below OUT_LEN, and OUT_LEN is 0 or `18 + 4·W·H` (10_state.md rule R32,
20_memory.md rule R67). -/
abbrev State.FileOk (s : State) : Prop :=
  s.outMem.map Prod.fst = List.range s.outLen.toNat ∧
  (s.outLen = 0#32 ∨ s.outLen.toNat = tgaSize s.width.toNat s.height.toNat)

/-- The draws that give the unlisted bytes are two old ones. -/
abbrev State.DrawsOk (s : State) : Prop :=
  s.inSeed < s.draws ∧ s.outSeed < s.draws ∧ s.inSeed ≠ s.outSeed

/-- Dimensions a resolution line can be accepted with (41_rgbe_decoder.md rule R125). -/
def dimsOk (p : Params) (w h : Nat) : Bool := decide ((1 ≤ w ∧ w ≤ p.maxW) ∧ 1 ≤ h ∧ h ≤ p.maxH)

/-- The planes before `k` are full, `k` is not, and those after it are empty (rules R131, R132). -/
def planesOk (w : Nat) (buf : PlaneBuf) : Plane → Bool
  | .r => decide (buf.r.length < w ∧ buf.g = [] ∧ buf.b = [] ∧ buf.e = [])
  | .g => decide (buf.r.length = w ∧ buf.g.length < w ∧ buf.b = [] ∧ buf.e = [])
  | .b => decide (buf.r.length = w ∧ buf.g.length = w ∧ buf.b.length < w ∧ buf.e = [])
  | .e => decide (buf.r.length = w ∧ buf.g.length = w ∧ buf.b.length = w ∧ buf.e.length < w)

/-- A phase a scanline `w` pixels wide can be in. -/
def Phase.ok (w : Nat) : Phase → Bool
  | .start => true
  | .flat row => decide (1 ≤ row.length ∧ row.length < w)
  | .planes k buf => Config.rleEligible w && planesOk w buf k

/-- A sequencer over an input of length `L`. -/
def Seq.ok (p : Params) (L : Nat) (q : Seq) : Bool :=
  dimsOk p q.w q.h && decide (q.p ≤ L ∧ q.y < q.h ∧ q.raster.length = q.y * q.w) && q.phase.ok q.w

/-- A stage a RUN over an input of length `L` can be in. -/
def RunStage.ok (p : Params) (L : Nat) : RunStage → Bool
  | .header => true
  | .scanlines q => q.ok p L
  | .decoded img => dimsOk p img.w img.h && decide (img.raster.length = img.w * img.h)
  | .packed pk =>
    dimsOk p pk.w pk.h &&
      decide (pk.stride = alignUp (4 * pk.w) p.strideAlign ∧ pk.bytes.length = pk.stride * pk.h)
  | .written w h file => dimsOk p w h && decide (file.length = tgaSize w h ∧ file.length ≤ p.outCap)
  | .failed dims why =>
    decide (why.pos ≤ L) &&
      match dims with
      | none => true
      | some (w, h) => dimsOk p w h

/-- The operands of a command in flight are the registers and the memory as they stand (10_state.md rule R23);
a RUN in flight has cleared its result registers (40_commands.md rule R111). -/
def State.jobOk (s : State) : Bool :=
  match s.job with
  | none => true
  | some (.encode cr cg cb) => decide (cr = s.pixR ∧ cg = s.pixG ∧ cb = s.pixB)
  | some (.run inb stage) =>
    decide (inb = s.captureIn ∧ s.width = 0#16 ∧ s.height = 0#16 ∧ s.outLen = 0#32) &&
      stage.ok s.params inb.length

/-- What every step keeps. -/
abbrev State.Inv (s : State) : Prop :=
  s.params.Legal ∧ s.StatusOk ∧ s.ReportOk ∧ s.MemoryOk ∧ s.FileOk ∧ s.DrawsOk ∧ s.jobOk = true

/-- The accesses that are part of the interface (20_memory.md rules R60, R62, R63). -/
def HostAccess.inside (p : Params) : HostAccess → Bool
  | .regRead off bytes => decide (bytes = 4 ∧ off % 4 = 0 ∧ off ≤ 0x3C)
  | .regWrite off bytes _ => decide (bytes = 4 ∧ off % 4 = 0 ∧ off ≤ 0x3C)
  | .inRead a bytes => decide (bytes = 1 ∧ a < p.inCap)
  | .inWrite a bytes _ => decide (bytes = 1 ∧ a < p.inCap)
  | .outRead a bytes => decide (bytes = 1 ∧ a < p.outCap)
  | .outWrite _ _ _ => false

/-- The name under which an access outside the interface is refused. -/
def HostAccess.refusal : HostAccess → Refusal
  | .regRead off bytes => .registerAccess off bytes
  | .regWrite off bytes _ => .registerAccess off bytes
  | .inRead a bytes => .inAccess a bytes
  | .inWrite a bytes _ => .inAccess a bytes
  | .outRead a bytes => .outAccess a bytes
  | .outWrite a bytes _ => .outWriteAccess a bytes

/-- A move that a step does not refuse. -/
def Event.inside (p : Params) : Event → Bool
  | .host x => x.inside p
  | .tick => true
  | .complete => true
  | .reset => true

/-- The values a packet fills into its plane: `n` copies of `v`, or the literal's bytes (rules R87, R133,
R134). -/
def packetValues : Instr → List Byte
  | .rleRun n v => List.replicate n.toNat v
  | .rleLiteral bytes => bytes
  | .rleLiteral128 bytes => bytes
  | .nop _ => []
  | .run _ => []
  | .encodePixel _ => []
  | .clear _ => []
  | .reserved0407 _ _ => []
  | .reserved080F _ _ => []
  | .reserved101F _ _ => []
  | .reserved203F _ _ => []
  | .reserved407F _ _ => []
  | .reserved80FF _ _ => []
  | .scanlineMarker _ _ => []
  | .flatPixel _ _ _ _ => []

/-- A RUN over `inb` is reading scanlines with sequencer `q`. -/
abbrev State.Reading (s : State) (inb : List Byte) (q : Seq) : Prop :=
  s.job = some (.run inb (.scanlines q))

/-- The bytes of an axis (30_encoding.md rule R84). -/
def Axis.bytes (a : Axis) : List Byte :=
  [match a.sign with | .plus => 0x2B#8 | .minus => 0x2D#8, match a.letter with | .x => 0x58#8 | .y => 0x59#8]

/-- A resolution line without its LF: `axis SP number SP axis SP number` (rule R84). -/
def resolutionLine (a1 : Axis) (d1 : List Byte) (a2 : Axis) (d2 : List Byte) : List Byte :=
  a1.bytes ++ [0x20#8] ++ d1 ++ [0x20#8] ++ a2.bytes ++ [0x20#8] ++ d2

/-- `number := digit digit*` (rule R84). -/
abbrev IsNumber (ds : List Byte) : Prop := ds ≠ [] ∧ ∀ d ∈ ds, isDigit d = true

/-- Offset `t` is just behind a blank line: an LF at the start of a line (rule R83). -/
abbrev BlankLineEndsAt (inb : List Byte) (t : Nat) : Prop :=
  1 ≤ t ∧ inb[t - 1]? = some lineFeed ∧ (t = 1 ∨ inb[t - 2]? = some lineFeed)

/-- The pattern of a value in `[0, 6]`: 0x40C00000 is 6.0, and the patterns of the non-negative values stand in
their order; or −0. -/
abbrev InZeroToSix (u : Word) : Prop := u.toNat ≤ 0x40C00000 ∨ u = 0x80000000#32

/-- A channel's value for rule R160's bound: `|c − o/255 · m/255 · 6| ≤ 6/255`, for
`c` of `n` units, multiplied out by `255 · 255` units of 1.0. -/
abbrev WithinRoundTripBound (n : Nat) (o m : Byte) : Prop :=
  ((n : Int) * 65025 - 6 * (o.toNat * m.toNat) * one).natAbs ≤ 6 * 255 * one

end Sys2Proof.Machine
end

