-- ==== Sys2Proof/Certificates/Slice0/Obligations.lean ====
section
/-! DEFINITION. The statements about the block, for the provers. Each says which rule of spec/ it formalises;
a clause that rests on a choice of the model names its log entry. -/

open Sys2Proof Sys2Proof.Machine

/-! ### Reset and the machine as a whole -/

/-- 10_state.md R44: the state after reset, register by register. The memories list nothing, which is how the
model writes that every byte is unspecified. -/
def Obligations.ResetLeavesTheTableOfRuleR44 : Prop :=
  State.reset = State.resetWith State.reset.params ∧
  ∀ p : Params,
    (State.resetWith p).execState = .idle ∧ (State.resetWith p).status = 0#32 ∧
    (∀ r : Reg, r ≠ .capDim → r ≠ .capIn → r ≠ .capOut → (State.resetWith p).regValue r = 0#32) ∧
    (p.Legal → ((State.resetWith p).regValue .capDim).toNat = p.maxW + p.maxH * 65536 ∧
      ((State.resetWith p).regValue .capIn).toNat = p.inCap ∧
      ((State.resetWith p).regValue .capOut).toNat = p.outCap) ∧
    (State.resetWith p).irq = false ∧ (State.resetWith p).job = none ∧
    (∀ a, Memory.find (State.resetWith p).inMem a = none) ∧
    (∀ a, Memory.find (State.resetWith p).outMem a = none)

/-- 70_reset_and_hazards.md R220: a reset step from any state, BUSY or not. What stays is the parameters, the
moves still to come and the host's last result (log 14); the unlisted bytes get new draws (log 7). -/
def Obligations.ResetStepRestoresEveryResetValue : Prop :=
  ∀ (s : State) (rest : List Event), s.script = .reset :: rest →
    step s = .next { State.resetWith s.params with
      script := rest, resp := s.resp, inSeed := s.draws, outSeed := s.draws + 1, draws := s.draws + 2 }

/-- The invariant holds after reset, for every legal set of parameters and for the one `State.reset` names
(log 2). -/
def Obligations.InvariantHoldsAtReset : Prop :=
  (∀ p : Params, p.Legal → (State.resetWith p).Inv) ∧ State.reset.Inv

/-- Every step keeps the invariant: DONE and ERR exclusive and 0 while BUSY (R26), only the reports of R191,
the memories in form and within their capacities (R61), IN_LEN at most IN_CAP (R29), OUT holding exactly
OUT_LEN bytes of a file (R32, R67), a command in flight holding what it captured (R23), and a sequencer,
rasters and errors within the bounds of R125, R128, R132, R141, R171 and R175. -/
def Obligations.EveryStepKeepsTheInvariant : Prop :=
  ∀ s t : State, s.Inv → step s = .next t → t.Inv

/-- The form of the memories is kept by every step of every state, whatever else holds of it. -/
def Obligations.EveryStepKeepsTheMemoriesInForm : Prop :=
  ∀ s t : State, Memory.wf s.inMem = true → Memory.wf s.outMem = true → step s = .next t →
    Memory.wf t.inMem = true ∧ Memory.wf t.outMem = true

/-- 20_memory.md R62, R63: a step is refused exactly for an access outside the interface, under that access's
name, and every other step of every state answers a next state: no step faults, and no state is stuck. That a
host write to OUT is such an access is the model's reading of R60 (log 16), and that the hidden steps of a
completion always end is its reading of R22 and R141 (log 11). -/
def Obligations.OnlyAccessesOutsideTheInterfaceAreRefused : Prop :=
  ∀ s : State,
    (∀ (x : HostAccess) (rest : List Event), s.script = .host x :: rest → x.inside s.params = false →
      step s = .refused x.refusal) ∧
    ((∀ (x : HostAccess) (rest : List Event), s.script = .host x :: rest → x.inside s.params = true) →
      ∃ t, step s = .next t)

/-- 30_encoding.md R80, 20_memory.md R60: a host write to CMD runs the instruction its word decodes to, on the
state with that move taken off the script. -/
def Obligations.StepRunsTheDecodedCommand : Prop :=
  ∀ (s : State) (w : Word) (rest : List Event), s.script = .host (.regWrite 0 4 w) :: rest →
    ∃ i, decode (.command w) = .ok i ∧ i.wf = true ∧ step s = exec i { s with script := rest }

/-- 41_rgbe_decoder.md R129, R132 to R134, R136: a hidden step of a RUN that is reading scanlines runs the token
that the bytes at the cursor decode to, read as the phase says. Where the input is cut short, it fails: a
marker or a pixel with EOF_FLAT and a missing count byte with EOF_RLE, at the input's end, and a run of `n`
or a literal of `n` with RLE_OVERRUN at its count byte if it would run past W, else with EOF_RLE at the
input's end. That one hidden step is one token is the model's (log 15). -/
def Obligations.StepRunsTheDecodedToken : Prop :=
  ∀ (s : State) (rest : List Event) (inb : List Byte) (q : Seq),
    s.script = .tick :: rest → s.Reading inb q →
    let failsWith := fun (d : Detail) (pos : Nat) =>
      step s = .next { s with script := rest, job := some (.run inb (.failed (some (q.w, q.h)) ⟨d, pos⟩)) }
    (∀ i, decode (q.source inb) = .ok i → step s = exec i { s with script := rest }) ∧
    (decode (q.source inb) = .error .shortPixel → failsWith .eofFlat inb.length) ∧
    (decode (q.source inb) = .error .noCountByte → failsWith .eofRle inb.length) ∧
    (∀ k buf n, q.phase = .planes k buf →
      decode (q.source inb) = .error (.shortRun n) ∨ decode (q.source inb) = .error (.shortLiteral n) →
      (q.w < (buf.get k).length + n → failsWith .rleOverrun q.p) ∧
      ((buf.get k).length + n ≤ q.w → failsWith .eofRle inb.length)) ∧
    (q.phase = .start → q.source inb = .rowStart (decide (8 ≤ q.w ∧ q.w ≤ 32767)) (inb.drop q.p)) ∧
    (∀ row, q.phase = .flat row → q.source inb = .flat (inb.drop q.p)) ∧
    (∀ k buf, q.phase = .planes k buf → q.source inb = .packet (inb.drop q.p)) ∧
    (q.phase = .start ∨ (∃ row, q.phase = .flat row) → inb.length < q.p + 4 →
      failsWith .eofFlat inb.length) ∧
    (∀ k buf, q.phase = .planes k buf → inb.length ≤ q.p → failsWith .eofRle inb.length)

/-- 10_state.md R22: every busy block completes. Once the moves of the script are made, one more step leaves
the block IDLE, whatever the script (log 1). -/
def Obligations.EveryBlockIsIdleAfterItsScriptAndOneStep : Prop :=
  ∀ s : State, (∀ e ∈ s.script, e.inside s.params = true) →
    ∃ t : State, Host.Core.run Sys2Proof.core (s.script.length + 1) s = .next t ∧ t.execState = .idle

/-! ### Encodings -/

/-- 30_encoding.md R80, R81: bits 7:0 of a command word select the instruction and bits 31:8 are ignored. The
six reserved ranges are the rows of spec/opcode_table.json; that a command keeps its ignored bits as an
operand is the model's choice (log 18). -/
def Obligations.CommandWordsDecodeByTheirLowByte : Prop :=
  ∀ w : Word,
    (w.toNat % 256 = 0x00 → decodeCommand w = .nop (w.extractLsb' 8 24)) ∧
    (w.toNat % 256 = 0x01 → decodeCommand w = .run (w.extractLsb' 8 24)) ∧
    (w.toNat % 256 = 0x02 → decodeCommand w = .encodePixel (w.extractLsb' 8 24)) ∧
    (w.toNat % 256 = 0x03 → decodeCommand w = .clear (w.extractLsb' 8 24)) ∧
    (0x04 ≤ w.toNat % 256 → w.toNat % 256 ≤ 0x07 → ∃ x g, decodeCommand w = .reserved0407 x g) ∧
    (0x08 ≤ w.toNat % 256 → w.toNat % 256 ≤ 0x0F → ∃ x g, decodeCommand w = .reserved080F x g) ∧
    (0x10 ≤ w.toNat % 256 → w.toNat % 256 ≤ 0x1F → ∃ x g, decodeCommand w = .reserved101F x g) ∧
    (0x20 ≤ w.toNat % 256 → w.toNat % 256 ≤ 0x3F → ∃ x g, decodeCommand w = .reserved203F x g) ∧
    (0x40 ≤ w.toNat % 256 → w.toNat % 256 ≤ 0x7F → ∃ x g, decodeCommand w = .reserved407F x g) ∧
    (0x80 ≤ w.toNat % 256 → ∃ x g, decodeCommand w = .reserved80FF x g)

/-- Decode and encode agree on the command words, in both directions: no bit of a word is dropped. The second
direction rests on the model's choice to keep the ignored bits as an operand (log 18). -/
def Obligations.CommandDecodeAndEncodeAgree : Prop :=
  (∀ i : Instr, i.isCommand = true → ∃ w, encode i = .word w ∧ decode (.command w) = .ok i) ∧
  (∀ w : Word, (decodeCommand w).isCommand = true ∧ encode (decodeCommand w) = .word w)

/-- Decode and encode agree on the tokens, whatever bytes follow; a token's bytes are as many as its size
(R86 to R88). A flat pixel at the start of an eligible scanline is one that does not start with a marker's
pattern (R86). -/
def Obligations.TokenDecodeAndEncodeAgree : Prop :=
  ∀ (i : Instr) (tail : List Byte), i.wf = true → i.isCommand = false →
    ∃ bs, encode i = .bytes bs ∧ bs.length = i.size ∧
      (i.isPacket = true → decode (.packet (bs ++ tail)) = .ok i) ∧
      (∀ h l, i = .scanlineMarker h l → decode (.rowStart true (bs ++ tail)) = .ok i) ∧
      (∀ r g b e, i = .flatPixel r g b e →
        decode (.flat (bs ++ tail)) = .ok i ∧ decode (.rowStart false (bs ++ tail)) = .ok i ∧
        (¬(r = 2#8 ∧ g = 2#8 ∧ b.toNat < 128) → decode (.rowStart true (bs ++ tail)) = .ok i))

/-- 30_encoding.md R87: what is read in a plane is a packet whose bytes stand at the front of the input, its
first byte tells the form and the length, "2 if `c > 128`, otherwise `1 + c`", and nothing is read only
where the input ends before that length. -/
def Obligations.PacketsAreReadByTheirCountByte : Prop :=
  decode (.packet []) = .error .noCountByte ∧
  ∀ (c : Byte) (rest : List Byte),
    (128 < c.toNat → rest = [] → decode (.packet (c :: rest)) = .error (.shortRun (c.toNat - 128))) ∧
    (c.toNat ≤ 128 → rest.length < c.toNat →
      decode (.packet (c :: rest)) = .error (.shortLiteral c.toNat)) ∧
    ((if 128 < c.toNat then 2 else 1 + c.toNat) ≤ 1 + rest.length →
      ∃ i, decode (.packet (c :: rest)) = .ok i ∧ i.wf = true ∧ i.isPacket = true ∧
        i.size = (if 128 < c.toNat then 2 else 1 + c.toNat) ∧
        encode i = .bytes ((c :: rest).take i.size) ∧
        (packetValues i).length = (if 128 < c.toNat then c.toNat - 128 else c.toNat))

/-- Words and bytes written out from the rows of spec/opcode_table.json. -/
def Obligations.SampleEncodingsDecodeToTheirRows : Prop :=
  decode (.command 0xFFFFFF00#32) = .ok (.nop 0xFFFFFF#24) ∧
  decode (.command 0x00000001#32) = .ok (.run 0#24) ∧
  decode (.command 0x00000081#32) = .ok (.reserved80FF 1#7 0#24) ∧
  decode (.rowStart true [0x02#8, 0x02#8, 0x01#8, 0x2C#8]) = .ok (.scanlineMarker 1#7 0x2C#8) ∧
  decode (.packet [0x88#8, 0x80#8]) = .ok (.rleRun 8#7 0x80#8) ∧
  decode (.packet [0x03#8, 0x0A#8, 0x0B#8, 0x0C#8]) = .ok (.rleLiteral [0x0A#8, 0x0B#8, 0x0C#8])

/-! ### Commands -/

/-- 40_commands.md R113: a NOP in IDLE changes nothing, whatever its ignored bits. -/
def Obligations.NopChangesNothing : Prop :=
  ∀ (s : State) (g : BitVec 24), s.execState = .idle → exec (.nop g) s = .next s

/-- 40_commands.md R111, the issue of RUN, and 10_state.md R23, what it captures. That OUT lists nothing from
here on is 70_reset_and_hazards.md R224; when and how its free value is drawn is the model's (log 4). -/
def Obligations.RunIssueCapturesItsInputAndClearsItsResults : Prop :=
  ∀ (s : State) (g : BitVec 24), s.execState = .idle →
    exec (.run g) s = .next { s with
      job := some (.run ((List.range s.inLen.toNat).map s.inByte) .header)
      done := false, err := false, errinfo := 0#32, errpos := 0#32
      width := 0#16, height := 0#16, outLen := 0#32
      outMem := [], outSeed := s.draws, draws := s.draws + 1 }

/-- 40_commands.md R112, the issue of ENCODE_PIXEL. -/
def Obligations.EncodePixelIssueCapturesTheThreeWords : Prop :=
  ∀ (s : State) (g : BitVec 24), s.execState = .idle →
    exec (.encodePixel g) s = .next { s with
      job := some (.encode s.pixR s.pixG s.pixB)
      done := false, err := false, errinfo := 0#32, errpos := 0#32 }

/-- 40_commands.md R116: CLEAR in IDLE. It lowers `irq`, and STATUS reads 0 after it. -/
def Obligations.ClearAcknowledgesAndKeepsResults : Prop :=
  ∀ (s : State) (g : BitVec 24), s.execState = .idle →
    ∃ t, exec (.clear g) s = .next t ∧
      t = { s with done := false, err := false, viol := false, errinfo := 0#32, errpos := 0#32 } ∧
      t.execState = .idle ∧ t.irq = false ∧ t.status = 0#32

/-- 40_commands.md R115: a reserved opcode in IDLE sets VIOL and changes nothing else. -/
def Obligations.ReservedOpcodesOnlySetViol : Prop :=
  ∀ (s : State) (g : BitVec 24), s.execState = .idle →
    (∀ x, exec (.reserved0407 x g) s = .next { s with viol := true }) ∧
    (∀ x, exec (.reserved080F x g) s = .next { s with viol := true }) ∧
    (∀ x, exec (.reserved101F x g) s = .next { s with viol := true }) ∧
    (∀ x, exec (.reserved203F x g) s = .next { s with viol := true }) ∧
    (∀ x, exec (.reserved407F x g) s = .next { s with viol := true }) ∧
    (∀ x, exec (.reserved80FF x g) s = .next { s with viol := true })

/-- 40_commands.md R114: every command while BUSY is dropped; only VIOL is set. -/
def Obligations.CommandsWhileBusyAreDropped : Prop :=
  ∀ (s : State) (i : Instr), i.isCommand = true → s.execState = .busy →
    exec i s = .next { s with viol := true }

/-- The frame of the commands: what none of them changes at its issue, and what only RUN changes. No byte of IN
changes; no byte of OUT changes but at the issue of a RUN, from which OUT is unspecified. -/
def Obligations.CommandFrame : Prop :=
  ∀ (s t : State) (i : Instr), i.isCommand = true → exec i s = .next t →
    t.params = s.params ∧ t.inLen = s.inLen ∧ t.pixR = s.pixR ∧ t.pixG = s.pixG ∧ t.pixB = s.pixB ∧
    t.pixOut = s.pixOut ∧ t.irqEn = s.irqEn ∧ t.script = s.script ∧ t.resp = s.resp ∧
    (∀ a, t.inByte a = s.inByte a) ∧
    ((∀ g, i ≠ .run g) → t.width = s.width ∧ t.height = s.height ∧ t.outLen = s.outLen ∧
      t.draws = s.draws ∧ ∀ a, t.outByte a = s.outByte a)

/-- 10_state.md R22 and 40_commands.md R112: the completion of an ENCODE_PIXEL. Its result is the fields of
PIX_OUT (R34), and nothing but PIX_OUT, DONE and the execution state changes. -/
def Obligations.EncodePixelCompletionPublishesTheBytes : Prop :=
  ∀ (s : State) (cr cg cb : Word), s.job = some (.encode cr cg cb) →
    ∃ t, complete s = .next t ∧
      t = { s with job := none, done := true, pixOut := t.pixOut } ∧
      t.pixOut.extractLsb' 0 8 = (rgbmEncode s.params.tie cr cg cb).r ∧
      t.pixOut.extractLsb' 8 8 = (rgbmEncode s.params.tie cr cg cb).g ∧
      t.pixOut.extractLsb' 16 8 = (rgbmEncode s.params.tie cr cg cb).b ∧
      t.pixOut.extractLsb' 24 8 = (rgbmEncode s.params.tie cr cg cb).m

/-- 60_exceptions.md R193 with the codes of R190 and R191: the entry of a failure at the completion of a RUN,
everything it writes and, by the record update, everything it leaves. That the unspecified bytes of OUT stay
those drawn at the issue is the model's choice (log 4). -/
def Obligations.FailingRunEntersTheFailureState : Prop :=
  ∀ (s : State) (inb : List Byte) (dims : Option (Nat × Nat)) (why : Failure),
    s.job = some (.run inb (.failed dims why)) →
    ∃ t, complete s = .next t ∧
      t = { s with
        err := true, done := false, errinfo := t.errinfo, errpos := BitVec.ofNat 32 why.pos, outLen := 0#32
        width := t.width, height := t.height, outMem := [], job := none } ∧
      t.errinfo.toNat = why.detail.kind.code + 16 * why.detail.stage + 256 * why.detail.code ∧
      (why.detail.stage = if why.detail = .outCapacity then 3 else 1) ∧
      (dims = none → t.width = 0#16 ∧ t.height = 0#16) ∧
      (∀ w h, dims = some (w, h) → t.width = BitVec.ofNat 16 w ∧ t.height = BitVec.ofNat 16 h)

/-- 60_exceptions.md R190, R191: the table of kinds and details, as ERRINFO reports them from the stage that
detects each (R193); every report is one of these. -/
def Obligations.ReportsAreTheTableOfRuleR191 : Prop :=
  Detail.errinfo .noBlankLine = 0x111#32 ∧ Detail.errinfo .resUnterminated = 0x211#32 ∧
  Detail.errinfo .resGrammar = 0x311#32 ∧ Detail.errinfo .dimZero = 0x411#32 ∧
  Detail.errinfo .dimTooLarge = 0x511#32 ∧ Detail.errinfo .eofFlat = 0x112#32 ∧
  Detail.errinfo .eofRle = 0x212#32 ∧ Detail.errinfo .rleOverrun = 0x312#32 ∧
  Detail.errinfo .markerWidth = 0x412#32 ∧ Detail.errinfo .orientation = 0x113#32 ∧
  Detail.errinfo .outCapacity = 0x134#32 ∧ ∀ d : Detail, d ∈ Detail.all

/-- 40_commands.md R111, 20_memory.md R67: the completion of a RUN whose file is ready. Every byte of OUT below
OUT_LEN is the file's; every byte above is an unspecified one. That it is the free value drawn at the issue of
the RUN is the model's (log 4). -/
def Obligations.SuccessfulRunPublishesItsFile : Prop :=
  ∀ (s : State) (inb : List Byte) (w h : Nat) (file : List Byte),
    s.job = some (.run inb (.written w h file)) →
    ∃ t, complete s = .next t ∧
      t = { s with
        width := BitVec.ofNat 16 w, height := BitVec.ofNat 16 h, outLen := BitVec.ofNat 32 file.length
        done := true, job := none, outMem := t.outMem } ∧
      ∀ a, t.outByte a = (file[a]?).getD (Config.freeByte s.outSeed a)

/-! ### The RGBE decoder -/

/-- 41_rgbe_decoder.md R121, R122: the header ends just behind the first blank line, and an input without one
fails with NO_BLANK_LINE at its end. -/
def Obligations.HeaderEndsAtTheFirstBlankLine : Prop :=
  ∀ (p : Params) (inb : List Byte),
    ((∀ t, ¬BlankLineEndsAt inb t) → parseHeader p inb = .error ⟨.noBlankLine, inb.length⟩) ∧
    (∀ t, BlankLineEndsAt inb t → (∀ u, u < t → ¬BlankLineEndsAt inb u) →
      parseHeader p inb = parseResolution p inb t)

/-- 41_rgbe_decoder.md R123 to R127 and 60_exceptions.md R195: every line of the grammar of 30_encoding.md R84,
with any digits and any two axes, and the outcome in the order of the checks; an input without an LF behind the
header; and the exact decimal value of a digit string of any length (R84). -/
def Obligations.ResolutionLinesAreCheckedInOrder : Prop :=
  (decimal [] = 0 ∧ ∀ (ds : List Byte) (d : Byte),
    (isDigit d = true ↔ 0x30 ≤ d.toNat ∧ d.toNat ≤ 0x39) ∧
    (isDigit d = true → decimal (ds ++ [d]) = decimal ds * 10 + (d.toNat - 0x30))) ∧
  ∀ (p : Params) (inb : List Byte) (s : Nat),
    (lineFeed ∉ inb.drop s → parseResolution p inb s = .error ⟨.resUnterminated, s⟩) ∧
    ∀ (a1 a2 : Axis) (d1 d2 rest : List Byte), IsNumber d1 → IsNumber d2 →
      inb.drop s = resolutionLine a1 d1 a2 d2 ++ lineFeed :: rest →
      (a1.letter = a2.letter → parseResolution p inb s = .error ⟨.resGrammar, s⟩) ∧
      ∀ w h : Nat,
        (a1.letter = .y ∧ a2.letter = .x ∧ h = decimal d1 ∧ w = decimal d2) ∨
          (a1.letter = .x ∧ a2.letter = .y ∧ w = decimal d1 ∧ h = decimal d2) →
        (w = 0 ∨ h = 0 → parseResolution p inb s = .error ⟨.dimZero, s⟩) ∧
        (w ≠ 0 → h ≠ 0 → p.maxW < w ∨ p.maxH < h → parseResolution p inb s = .error ⟨.dimTooLarge, s⟩) ∧
        (w ≠ 0 → h ≠ 0 → w ≤ p.maxW → h ≤ p.maxH →
          (a1 = ⟨.minus, .y⟩ ∧ a2 = ⟨.plus, .x⟩ →
            parseResolution p inb s = .ok ⟨w, h, s + (resolutionLine a1 d1 a2 d2).length + 1⟩) ∧
          (¬(a1 = ⟨.minus, .y⟩ ∧ a2 = ⟨.plus, .x⟩) →
            parseResolution p inb s = .error ⟨.orientation, s⟩))

/-- 30_encoding.md R84, 41_rgbe_decoder.md R124: a line is well-formed only if it has the grammar's form and two
different letters; every other line fails with RES_SYNTAX at its start. -/
def Obligations.OnlyLinesOfTheGrammarAreWellFormed : Prop :=
  ∀ (p : Params) (inb line rest : List Byte) (s : Nat),
    inb.drop s = line ++ lineFeed :: rest → lineFeed ∉ line →
    (¬∃ (a1 a2 : Axis) (d1 d2 : List Byte), IsNumber d1 ∧ IsNumber d2 ∧ a1.letter ≠ a2.letter ∧
      line = resolutionLine a1 d1 a2 d2) →
    parseResolution p inb s = .error ⟨.resGrammar, s⟩

/-- 41_rgbe_decoder.md R131: a marker at the start of a scanline of eligible width, with its four bytes there:
its width field is W and the planes begin, or it is not and the RUN fails at the marker's first byte. -/
def Obligations.MarkerOpensThePlanesOrFails : Prop :=
  ∀ (s : State) (inb : List Byte) (q : Seq) (h : BitVec 7) (l : BitVec 8),
    s.Reading inb q → q.phase = .start → 8 ≤ q.w → q.w ≤ 32767 → q.p + 4 ≤ inb.length →
    (h.toNat * 256 + l.toNat = q.w → exec (.scanlineMarker h l) s = .next { s with
      job := some (.run inb (.scanlines { q with p := q.p + 4, phase := .planes .r ⟨[], [], [], []⟩ })) }) ∧
    (h.toNat * 256 + l.toNat ≠ q.w → exec (.scanlineMarker h l) s = .next { s with
      job := some (.run inb (.failed (some (q.w, q.h)) ⟨.markerWidth, q.p⟩)) })

/-- 41_rgbe_decoder.md R133: a run that stays inside its plane fills `n` copies of `v` and takes two bytes. -/
def Obligations.RunPacketFillsItsPlane : Prop :=
  ∀ (s : State) (inb : List Byte) (q : Seq) (k : Plane) (buf : PlaneBuf) (n : BitVec 7) (v : Byte),
    s.Reading inb q → q.phase = .planes k buf → (buf.get k).length + n.toNat < q.w →
    q.p + 2 ≤ inb.length →
    exec (.rleRun n v) s = .next { s with
      job := some (.run inb (.scanlines { q with
        p := q.p + 2, phase := .planes k (buf.append k (List.replicate n.toNat v)) })) }

/-- 41_rgbe_decoder.md R134: a literal that stays inside its plane copies its bytes and takes one byte more; a
literal of no bytes takes its count byte and fills nothing. -/
def Obligations.LiteralPacketFillsItsPlane : Prop :=
  ∀ (s : State) (inb : List Byte) (q : Seq) (k : Plane) (buf : PlaneBuf) (bytes : List Byte),
    s.Reading inb q → q.phase = .planes k buf → (buf.get k).length + bytes.length < q.w →
    q.p + 1 + bytes.length ≤ inb.length →
    exec (.rleLiteral bytes) s = .next { s with
      job := some (.run inb (.scanlines { q with
        p := q.p + 1 + bytes.length, phase := .planes k (buf.append k bytes) })) } ∧
    exec (.rleLiteral128 bytes) s = .next { s with
      job := some (.run inb (.scanlines { q with
        p := q.p + 1 + bytes.length, phase := .planes k (buf.append k bytes) })) }

/-- 41_rgbe_decoder.md R133, R134 and 60_exceptions.md R195: a packet that runs past W fails at its count byte,
even where the input ends inside it, and one that does not run past W but is cut short fails at the
input's end. (What a step does on a packet that cannot be read whole is StepRunsTheDecodedToken's.) -/
def Obligations.PacketOverrunComesBeforeEndOfInput : Prop :=
  ∀ (s : State) (inb : List Byte) (q : Seq) (k : Plane) (buf : PlaneBuf) (i : Instr),
    s.Reading inb q → q.phase = .planes k buf → i.isPacket = true →
    (q.w < (buf.get k).length + (packetValues i).length → exec i s = .next { s with
      job := some (.run inb (.failed (some (q.w, q.h)) ⟨.rleOverrun, q.p⟩)) }) ∧
    ((buf.get k).length + (packetValues i).length ≤ q.w → inb.length < q.p + i.size →
      exec i s = .next { s with
        job := some (.run inb (.failed (some (q.w, q.h)) ⟨.eofRle, inb.length⟩)) })

/-- 41_rgbe_decoder.md R132, R131, R135, R128: a packet that brings the fill to W ends its plane: the next plane
begins, and behind plane E the scanline's pixels, expanded, join the raster, and the H-th scanline completes it.
Pixel `x` is the quadruplet of the four planes at `x` (R135). -/
def Obligations.FullPlaneEndsAndPlaneEEndsTheScanline : Prop :=
  ∀ (s : State) (inb : List Byte) (q : Seq) (k : Plane) (buf : PlaneBuf) (i : Instr),
    s.Reading inb q → q.phase = .planes k buf → i.isPacket = true →
    (buf.get k).length + (packetValues i).length = q.w → q.p + i.size ≤ inb.length →
    (∀ k', k.next = some k' → exec i s = .next { s with
      job := some (.run inb (.scanlines { q with
        p := q.p + i.size, phase := .planes k' (buf.append k (packetValues i)) })) }) ∧
    (k = .e →
      let row := zipPlanes buf.r buf.g buf.b (buf.e ++ packetValues i)
      (q.y + 1 < q.h → exec i s = .next { s with
        job := some (.run inb (.scanlines { q with
          p := q.p + i.size, y := q.y + 1, phase := .start, raster := q.raster ++ row.map expand })) }) ∧
      (q.y + 1 = q.h → exec i s = .next { s with
        job := some (.run inb (.decoded ⟨q.w, q.h, q.raster ++ row.map expand⟩)) }) ∧
      (buf.r.length = q.w → buf.g.length = q.w → buf.b.length = q.w →
        row.length = q.w ∧
        ∀ (x : Nat) (r g b e : Byte), buf.r[x]? = some r → buf.g[x]? = some g → buf.b[x]? = some b →
          (buf.e ++ packetValues i)[x]? = some e → row[x]? = some ⟨r, g, b, e⟩))

/-- 41_rgbe_decoder.md R136, R128, R140: a flat pixel joins its scanline; the W-th ends it, its row joins the
raster, and the H-th row completes the raster; a pixel cut short fails with EOF_FLAT at the input's end.
`row` is what the scanline holds so far. -/
def Obligations.FlatPixelJoinsItsScanline : Prop :=
  ∀ (s : State) (inb : List Byte) (q : Seq) (row : List Rgbe) (r g b e : Byte),
    s.Reading inb q → (q.phase = .start ∧ row = []) ∨ q.phase = .flat row →
    (inb.length < q.p + 4 → exec (.flatPixel r g b e) s = .next { s with
      job := some (.run inb (.failed (some (q.w, q.h)) ⟨.eofFlat, inb.length⟩)) }) ∧
    (q.p + 4 ≤ inb.length → row.length + 1 < q.w → exec (.flatPixel r g b e) s = .next { s with
      job := some (.run inb (.scanlines { q with p := q.p + 4, phase := .flat (row ++ [⟨r, g, b, e⟩]) })) }) ∧
    (q.p + 4 ≤ inb.length → row.length + 1 = q.w →
      (q.y + 1 < q.h → exec (.flatPixel r g b e) s = .next { s with
        job := some (.run inb (.scanlines { q with
          p := q.p + 4, y := q.y + 1, phase := .start
          raster := q.raster ++ (row ++ [(⟨r, g, b, e⟩ : Rgbe)]).map expand })) }) ∧
      (q.y + 1 = q.h → exec (.flatPixel r g b e) s = .next { s with
        job := some (.run inb (.decoded
          ⟨q.w, q.h, q.raster ++ (row ++ [(⟨r, g, b, e⟩ : Rgbe)]).map expand⟩)) }))

/-- The frame of the tokens: a token changes the stage of the RUN in flight and nothing else. Every register
the host reads and every byte of IN and OUT is as before, and the block stays BUSY over the same input. -/
def Obligations.TokenFrame : Prop :=
  ∀ (s t : State) (i : Instr), i.isCommand = false → exec i s = .next t →
    (∃ inb q stage, s.Reading inb q ∧ t = { s with job := some (.run inb stage) }) ∧
    (∀ r, t.regValue r = s.regValue r) ∧ (∀ a, t.inByte a = s.inByte a) ∧ (∀ a, t.outByte a = s.outByte a) ∧
    t.irq = s.irq

/-- 10_state.md R42: the hidden steps are hidden: a tick changes no register, no byte of a memory, no status
bit, neither starts nor ends a command, and keeps what the command in flight captured: the input of a RUN
(R23), and an ENCODE_PIXEL with its three words. Hidden steps are the model's (log 15). -/
def Obligations.HiddenStepsShowNothing : Prop :=
  ∀ s t : State, tick s = .next t →
    t = { s with job := t.job } ∧ t.execState = s.execState ∧ (∀ r, t.regValue r = s.regValue r) ∧
    t.irq = s.irq ∧ t.captureIn = s.captureIn ∧
    (∀ inb stage, s.job = some (.run inb stage) → ∃ stage', t.job = some (.run inb stage')) ∧
    (∀ cr cg cb, s.job = some (.encode cr cg cb) → t.job = some (.encode cr cg cb)) ∧
    (s.job = none → t.job = none)

/-- 10_state.md R22: the completion's results do not depend on how many hidden steps were taken before it. That
there are hidden steps before a completion is the model's (log 15). -/
def Obligations.HiddenStepsDoNotChangeTheCompletion : Prop :=
  ∀ s t : State, tick s = .next t → complete t = complete s

/-- 40_commands.md R111 and 41_rgbe_decoder.md R120: an accepted RUN, completed, reports exactly what the
functions `rgbe_decode`, the RGBM encoder and the TGA layout give for its captured input, whatever the
number of workers and the stride. -/
def Obligations.RunCompletesWithTheResultOfItsFunctions : Prop :=
  ∀ (s : State) (g : BitVec 24), s.params.Legal → s.execState = .idle →
    ∃ t, exec (.run g) s = .next t ∧
      complete t = .next (t.report (runResult s.params ((List.range s.inLen.toNat).map s.inByte)))

/-- 40_commands.md R111 ("Running RUN twice on the same input"), 41_rgbe_decoder.md R120: a second RUN, with no
host write between, gives the same registers and the same file bytes. -/
def Obligations.RunningTwiceGivesTheSameResult : Prop :=
  ∀ (s t u v w : State) (g g' : BitVec 24), s.params.Legal → s.execState = .idle →
    exec (.run g) s = .next t → complete t = .next u →
    exec (.run g') u = .next v → complete v = .next w →
    (∀ r, w.regValue r = u.regValue r) ∧ w.outMem = u.outMem

/-- 41_rgbe_decoder.md R137, R138: with `E ≥ 1` every channel is exactly `byte · 2^(E−136)`, which is
`byte · 2^(E+13)` units of `2^−149` and never rounded; it is a non-negative finite pattern. `E = 0` is
black. -/
def Obligations.ExpansionIsExact : Prop :=
  ∀ px : Rgbe,
    (px.e = 0#8 → expand px = ⟨0#32, 0#32, 0#32⟩) ∧
    (px.e ≠ 0#8 →
      magOf (expand px).r = .fin (px.r.toNat * 2 ^ (px.e.toNat + 13)) ∧
      magOf (expand px).g = .fin (px.g.toNat * 2 ^ (px.e.toNat + 13)) ∧
      magOf (expand px).b = .fin (px.b.toNat * 2 ^ (px.e.toNat + 13))) ∧
    signField (expand px).r = false ∧ signField (expand px).g = false ∧ signField (expand px).b = false

/-! ### The RGBM encoder -/

/-- 42_rgbm_encoder.md R151: a NaN of either sign, and any pattern with its sign bit set, is encoded as +0.0, in
each channel; every other pattern is taken as it is. -/
def Obligations.NanAndNegativeChannelsEncodeAsZero : Prop :=
  ∀ (tie : TieRule) (u v w : Word),
    ((exponentField u = 0xFF ∧ fractionField u ≠ 0) ∨ u.getLsbD 31 = true →
      rgbmEncode tie u v w = rgbmEncode tie 0#32 v w ∧ rgbmEncode tie v u w = rgbmEncode tie v 0#32 w ∧
      rgbmEncode tie v w u = rgbmEncode tie v w 0#32) ∧
    (¬((exponentField u = 0xFF ∧ fractionField u ≠ 0) ∨ u.getLsbD 31 = true) → sanitize u = u)

/-- 42_rgbm_encoder.md R161: swapping two channels swaps the two bytes and leaves the multiplier. -/
def Obligations.SwappingChannelsSwapsTheirBytes : Prop :=
  ∀ (tie : TieRule) (u v w : Word),
    (rgbmEncode tie v u w = { rgbmEncode tie u v w with
      r := (rgbmEncode tie u v w).g, g := (rgbmEncode tie u v w).r }) ∧
    (rgbmEncode tie u w v = { rgbmEncode tie u v w with
      g := (rgbmEncode tie u v w).b, b := (rgbmEncode tie u v w).g })

/-- 42_rgbm_encoder.md R154, R156: the multiplier byte is `k` itself under either tie rule, `k` lies in 1..255,
and `k` is the least integer at or above `a_raw ⊗ 255`. -/
def Obligations.MultiplierByteIsTheCeilingStep : Prop :=
  ∀ (tie : TieRule) (u v w : Word),
    let a := alphaRaw (scaled u) (scaled v) (scaled w)
    let k := (rgbmEncode tie u v w).m.toNat
    k = alphaStep a ∧ 1 ≤ k ∧ k ≤ 255 ∧
      round32 (a * (255 * one)) one ≤ k * one ∧ (k - 1) * one < round32 (a * (255 * one)) one

/-- 42_rgbm_encoder.md R158: a channel of 6.0 or more (pattern 0x40C00000), +∞ included, makes the multiplier
255, and every such channel is 255; in particular all three. -/
def Obligations.ChannelsOfSixOrMoreSaturate : Prop :=
  ∀ (tie : TieRule) (u v w : Word), 0x40C00000 ≤ u.toNat → u.toNat ≤ 0x7F800000 →
    (rgbmEncode tie u v w).m = 255#8 ∧ (rgbmEncode tie u v w).r = 255#8 ∧
    (rgbmEncode tie v u w).m = 255#8 ∧ (rgbmEncode tie v u w).g = 255#8 ∧
    (rgbmEncode tie v w u).m = 255#8 ∧ (rgbmEncode tie v w u).b = 255#8

/-- 42_rgbm_encoder.md R159: an input that sanitizes to zeros encodes to `(0, 0, 0, 1)`. -/
def Obligations.BlackEncodesWithTheLeastMultiplier : Prop :=
  ∀ (tie : TieRule) (u v w : Word), sanitize u = 0#32 → sanitize v = 0#32 → sanitize w = 0#32 →
    rgbmEncode tie u v w = ⟨0#8, 0#8, 0#8, 1#8⟩

/-- 42_rgbm_encoder.md R160: the round-trip bound for every colour with all channels in `[0, 6]`: each channel's
reconstruction `o/255 · m/255 · 6` is within `6/255` of it. −0 is one of those colours. -/
def Obligations.RoundTripErrorIsAtMostSixOver255 : Prop :=
  ∀ (tie : TieRule) (u v w : Word), InZeroToSix u → InZeroToSix v → InZeroToSix w →
    WithinRoundTripBound (finiteUnits u) (rgbmEncode tie u v w).r (rgbmEncode tie u v w).m ∧
    WithinRoundTripBound (finiteUnits v) (rgbmEncode tie u v w).g (rgbmEncode tie u v w).m ∧
    WithinRoundTripBound (finiteUnits w) (rgbmEncode tie u v w).b (rgbmEncode tie u v w).m

/-- 42_rgbm_encoder.md R162, 00_scope.md R11: `TIE_RULE` matters only for an exact half, where AWAY gives the
upper neighbour and EVEN the even one; the input (6, 1, 0) of R162 is such a half. -/
def Obligations.TieRuleMattersOnlyAtAnExactHalf : Prop :=
  (∀ n : Nat, n % one ≠ one / 2 → roundT .away n = roundT .even n) ∧
  (∀ k : Nat, roundT .away (k * one + one / 2) = k + 1 ∧
    roundT .even (k * one + one / 2) = if k % 2 = 0 then k else k + 1) ∧
  rgbmEncode .away 0x40C00000#32 0x3F800000#32 0#32 = ⟨255#8, 43#8, 0#8, 255#8⟩ ∧
  rgbmEncode .even 0x40C00000#32 0x3F800000#32 0#32 = ⟨255#8, 42#8, 0#8, 255#8⟩

/-! ### The pixel pipeline and the TGA encoder -/

/-- 30_encoding.md R92: the eighteen header bytes for dimensions below 65536. -/
def Obligations.TgaHeaderHasTheTableOfRuleR92 : Prop :=
  ∀ w h : Nat, w < 65536 → h < 65536 →
    (tgaHeader w h).map BitVec.toNat =
      [0x00, 0x00, 0x02, 0, 0, 0, 0, 0x00, 0, 0, 0, 0, w % 256, w / 256, h % 256, h / 256, 0x20, 0x28]

/-- 43_pipeline_tga.md R176, R175: the file of an image that fits: its length, its header, and for each pixel
the four bytes at its place. -/
def Obligations.FileHoldsEachPixelAtItsPlace : Prop :=
  ∀ (p : Params) (seed : Nat) (img : HdrImage), p.Legal → img.raster.length = img.w * img.h →
    18 + 4 * img.w * img.h ≤ p.outCap →
    ∃ file, tgaWrite p (pixelApply p seed img) = .ok file ∧ file.length = 18 + 4 * img.w * img.h ∧
      file.take 18 = tgaHeader img.w img.h ∧
      ∀ (x y : Nat) (c : Rgb), x < img.w → y < img.h → img.raster[y * img.w + x]? = some c →
        file[18 + 4 * (y * img.w + x) + 0]? = some (rgbmEncode p.tie c.r c.g c.b).b ∧
        file[18 + 4 * (y * img.w + x) + 1]? = some (rgbmEncode p.tie c.r c.g c.b).g ∧
        file[18 + 4 * (y * img.w + x) + 2]? = some (rgbmEncode p.tie c.r c.g c.b).r ∧
        file[18 + 4 * (y * img.w + x) + 3]? = some (rgbmEncode p.tie c.r c.g c.b).m

/-- 43_pipeline_tga.md R177: a file that does not fit OUT fails with OUT_CAPACITY at position 0, reported from
the writer, with the accepted dimensions. That the writer is a hidden step is the model's (log 15). -/
def Obligations.FileTooLargeForOutFails : Prop :=
  ∀ (s : State) (inb : List Byte) (pk : PackedImage), s.job = some (.run inb (.packed pk)) →
    (s.params.outCap < 18 + 4 * pk.w * pk.h →
      tick s = .next { s with job := some (.run inb (.failed (some (pk.w, pk.h)) ⟨.outCapacity, 0⟩)) }) ∧
    (18 + 4 * pk.w * pk.h ≤ s.params.outCap →
      ∃ file, tick s = .next { s with job := some (.run inb (.written pk.w pk.h file)) })

/-- 43_pipeline_tga.md R171, R172 and 60_exceptions.md R214: neither the number of workers nor the stride nor the
padding can be seen in the file. -/
def Obligations.WorkersAndStrideAreUnobservable : Prop :=
  ∀ (p p' : Params) (seed seed' : Nat) (img : HdrImage), p.Legal → p'.Legal →
    p'.outCap = p.outCap → p'.tie = p.tie → img.raster.length = img.w * img.h →
    tgaWrite p' (pixelApply p' seed' img) = tgaWrite p (pixelApply p seed img)

/-! ### Registers and memories -/

/-- 10_state.md R24 to R36, 20_memory.md R69: a register read answers the register's value and changes nothing,
in IDLE for every register and while BUSY for those that are no result registers; and what each of the sixteen
registers reads as, STATUS and IRQ_EN bit by bit and the CAP registers for legal parameters. -/
def Obligations.RegisterReadsAnswerTheRegister : Prop :=
  ∀ (s : State) (rest : List Event) (r : Reg), s.script = .host (.regRead r.offset 4) :: rest →
    (s.execState = .idle ∨
      r ∉ [Reg.errinfo, Reg.errpos, Reg.width, Reg.height, Reg.outLen, Reg.pixOut]) →
    step s = .next { s with script := rest, resp := .word (s.regValue r) } ∧
    (s.regValue .status).toNat = (if s.execState = .busy then 1 else 0) + (if s.done then 2 else 0) +
      (if s.err then 4 else 0) + (if s.viol then 8 else 0) ∧
    (s.regValue .irqEn).toNat = (if s.irqEn then 1 else 0) ∧
    s.regValue .cmd = 0#32 ∧ (s.regValue .width).toNat = s.width.toNat ∧
    (s.regValue .height).toNat = s.height.toNat ∧
    s.regValue .errinfo = s.errinfo ∧ s.regValue .errpos = s.errpos ∧ s.regValue .inLen = s.inLen ∧
    s.regValue .outLen = s.outLen ∧ s.regValue .pixR = s.pixR ∧ s.regValue .pixG = s.pixG ∧
    s.regValue .pixB = s.pixB ∧ s.regValue .pixOut = s.pixOut ∧
    (s.params.Legal → (s.regValue .capDim).toNat = s.params.maxW + s.params.maxH * 65536 ∧
      (s.regValue .capIn).toNat = s.params.inCap ∧ (s.regValue .capOut).toNat = s.params.outCap)

/-- 10_state.md R39: a read of a result register while BUSY answers a free value, a new one at each read, and
changes nothing of the block. How the draws are numbered is the model's (log 7). -/
def Obligations.ResultReadsWhileBusyAreFree : Prop :=
  ∀ (s : State) (rest : List Event) (r : Reg), s.script = .host (.regRead r.offset 4) :: rest →
    s.execState = .busy →
    r ∈ [Reg.errinfo, Reg.errpos, Reg.width, Reg.height, Reg.outLen, Reg.pixOut] →
    step s = .next { s with script := rest, resp := .word (Config.freeWord s.draws), draws := s.draws + 1 }

/-- 10_state.md R29, R33, R35 and R24: the register writes: in IDLE PIX_R, PIX_G and PIX_B take every pattern and
IN_LEN the lesser of the value and IN_CAP; IRQ_EN takes bit 0 in either state; a write to a read-only
register changes nothing in either state. -/
def Obligations.RegisterWritesStoreOrAreIgnored : Prop :=
  ∀ (s : State) (rest : List Event) (v : Word) (r : Reg), s.script = .host (.regWrite r.offset 4 v) :: rest →
    (s.execState = .idle → r = .pixR → step s = .next { s with script := rest, pixR := v }) ∧
    (s.execState = .idle → r = .pixG → step s = .next { s with script := rest, pixG := v }) ∧
    (s.execState = .idle → r = .pixB → step s = .next { s with script := rest, pixB := v }) ∧
    (s.execState = .idle → r = .inLen →
      ∃ x : Word, step s = .next { s with script := rest, inLen := x } ∧
        (s.params.inCap < 2 ^ 32 → x.toNat = min v.toNat s.params.inCap)) ∧
    (r = .irqEn → step s = .next { s with script := rest, irqEn := v.getLsbD 0 }) ∧
    (r ∈ [Reg.status, Reg.errinfo, Reg.errpos, Reg.width, Reg.height, Reg.outLen, Reg.pixOut, Reg.capDim,
        Reg.capIn, Reg.capOut] → step s = .next { s with script := rest })

/-- 20_memory.md R66: the writes that are dropped while BUSY change nothing but VIOL. -/
def Obligations.WritesWhileBusyAreDropped : Prop :=
  ∀ (s : State) (rest : List Event), s.execState = .busy →
    (∀ (v : Word) (r : Reg), r ∈ [Reg.inLen, Reg.pixR, Reg.pixG, Reg.pixB] →
      s.script = .host (.regWrite r.offset 4 v) :: rest →
      step s = .next { s with script := rest, viol := true }) ∧
    (∀ (a : Nat) (b : Byte), a < s.params.inCap → s.script = .host (.inWrite a 1 b) :: rest →
      step s = .next { s with script := rest, viol := true })

/-- 20_memory.md R65: a write to IN in IDLE sets that byte and no other, and changes nothing else; a read of IN
answers the byte, in either state. That an unwritten byte reads the same each time is the model's (log 3). -/
def Obligations.InMemoryKeepsTheLastByteWritten : Prop :=
  ∀ (s : State) (rest : List Event) (a : Nat), a < s.params.inCap →
    (∀ b : Byte, s.execState = .idle → s.script = .host (.inWrite a 1 b) :: rest →
      ∃ t, step s = .next t ∧ t = { s with script := rest, inMem := t.inMem } ∧ t.inByte a = b ∧
        ∀ a', a' ≠ a → t.inByte a' = s.inByte a') ∧
    (s.script = .host (.inRead a 1) :: rest →
      step s = .next { s with script := rest, resp := .byte (s.inByte a) })

/-- 20_memory.md R67: a read of OUT answers the byte in IDLE and a new free value while BUSY. How the
draws are numbered is the model's (log 7). -/
def Obligations.OutReadsAnswerTheFileOnlyWhenIdle : Prop :=
  ∀ (s : State) (rest : List Event) (a : Nat), a < s.params.outCap →
    s.script = .host (.outRead a 1) :: rest →
    (s.execState = .idle → step s = .next { s with script := rest, resp := .byte (s.outByte a) }) ∧
    (s.execState = .busy → step s = .next { s with
      script := rest, resp := .byte (Config.freeByte s.draws a), draws := s.draws + 1 })

/-- 60_exceptions.md R200, R201: `irq = EN ∧ (DONE ∨ ERR)`; it rises at a completion while EN is 1, of either
kind, or when EN becomes 1 while DONE or ERR is; it falls at CLEAR, at the issue of an accepted RUN or
ENCODE_PIXEL, when EN becomes 0, and at reset; VIOL does not affect it. -/
def Obligations.InterruptRisesAtCompletionAndFallsAtAcknowledgement : Prop :=
  ∀ s t : State,
    (s.irq = true ↔ s.irqEn = true ∧ (s.done = true ∨ s.err = true)) ∧
    (s.execState = .busy → complete s = .next t → t.irq = s.irqEn) ∧
    (∀ i g, s.execState = .idle → i = .clear g ∨ i = .run g ∨ i = .encodePixel g → exec i s = .next t →
      t.irq = false) ∧
    { s with irqEn := false }.irq = false ∧ (resetStep s).irq = false ∧
    (s.done = true ∨ s.err = true → { s with irqEn := true }.irq = true) ∧
    { s with viol := true }.irq = s.irq ∧ { s with viol := false }.irq = s.irq
end

