-- ==== Sys2Proof/Laws/State.lean ====
section
/-! SUPPORT. One lemma a field for each named update of the state, so that no proof unfolds a record update. -/
namespace Sys2Proof.Machine

/-! ### `State.violate` -/

@[simp] theorem State.violate_params (s : State) : s.violate.params = s.params := rfl
@[simp] theorem State.violate_job (s : State) : s.violate.job = s.job := rfl
@[simp] theorem State.violate_done (s : State) : s.violate.done = s.done := rfl
@[simp] theorem State.violate_err (s : State) : s.violate.err = s.err := rfl
@[simp] theorem State.violate_viol (s : State) : s.violate.viol = true := rfl
@[simp] theorem State.violate_errinfo (s : State) : s.violate.errinfo = s.errinfo := rfl
@[simp] theorem State.violate_errpos (s : State) : s.violate.errpos = s.errpos := rfl
@[simp] theorem State.violate_inLen (s : State) : s.violate.inLen = s.inLen := rfl
@[simp] theorem State.violate_width (s : State) : s.violate.width = s.width := rfl
@[simp] theorem State.violate_height (s : State) : s.violate.height = s.height := rfl
@[simp] theorem State.violate_outLen (s : State) : s.violate.outLen = s.outLen := rfl
@[simp] theorem State.violate_pixR (s : State) : s.violate.pixR = s.pixR := rfl
@[simp] theorem State.violate_pixG (s : State) : s.violate.pixG = s.pixG := rfl
@[simp] theorem State.violate_pixB (s : State) : s.violate.pixB = s.pixB := rfl
@[simp] theorem State.violate_pixOut (s : State) : s.violate.pixOut = s.pixOut := rfl
@[simp] theorem State.violate_irqEn (s : State) : s.violate.irqEn = s.irqEn := rfl
@[simp] theorem State.violate_inMem (s : State) : s.violate.inMem = s.inMem := rfl
@[simp] theorem State.violate_outMem (s : State) : s.violate.outMem = s.outMem := rfl
@[simp] theorem State.violate_inSeed (s : State) : s.violate.inSeed = s.inSeed := rfl
@[simp] theorem State.violate_outSeed (s : State) : s.violate.outSeed = s.outSeed := rfl
@[simp] theorem State.violate_draws (s : State) : s.violate.draws = s.draws := rfl
@[simp] theorem State.violate_script (s : State) : s.violate.script = s.script := rfl
@[simp] theorem State.violate_resp (s : State) : s.violate.resp = s.resp := rfl

/-! ### `State.acknowledge` -/

@[simp] theorem State.acknowledge_params (s : State) : s.acknowledge.params = s.params := rfl
@[simp] theorem State.acknowledge_job (s : State) : s.acknowledge.job = s.job := rfl
@[simp] theorem State.acknowledge_done (s : State) : s.acknowledge.done = false := rfl
@[simp] theorem State.acknowledge_err (s : State) : s.acknowledge.err = false := rfl
@[simp] theorem State.acknowledge_viol (s : State) : s.acknowledge.viol = s.viol := rfl
@[simp] theorem State.acknowledge_errinfo (s : State) : s.acknowledge.errinfo = 0#32 := rfl
@[simp] theorem State.acknowledge_errpos (s : State) : s.acknowledge.errpos = 0#32 := rfl
@[simp] theorem State.acknowledge_inLen (s : State) : s.acknowledge.inLen = s.inLen := rfl
@[simp] theorem State.acknowledge_width (s : State) : s.acknowledge.width = s.width := rfl
@[simp] theorem State.acknowledge_height (s : State) : s.acknowledge.height = s.height := rfl
@[simp] theorem State.acknowledge_outLen (s : State) : s.acknowledge.outLen = s.outLen := rfl
@[simp] theorem State.acknowledge_pixR (s : State) : s.acknowledge.pixR = s.pixR := rfl
@[simp] theorem State.acknowledge_pixG (s : State) : s.acknowledge.pixG = s.pixG := rfl
@[simp] theorem State.acknowledge_pixB (s : State) : s.acknowledge.pixB = s.pixB := rfl
@[simp] theorem State.acknowledge_pixOut (s : State) : s.acknowledge.pixOut = s.pixOut := rfl
@[simp] theorem State.acknowledge_irqEn (s : State) : s.acknowledge.irqEn = s.irqEn := rfl
@[simp] theorem State.acknowledge_inMem (s : State) : s.acknowledge.inMem = s.inMem := rfl
@[simp] theorem State.acknowledge_outMem (s : State) : s.acknowledge.outMem = s.outMem := rfl
@[simp] theorem State.acknowledge_inSeed (s : State) : s.acknowledge.inSeed = s.inSeed := rfl
@[simp] theorem State.acknowledge_outSeed (s : State) : s.acknowledge.outSeed = s.outSeed := rfl
@[simp] theorem State.acknowledge_draws (s : State) : s.acknowledge.draws = s.draws := rfl
@[simp] theorem State.acknowledge_script (s : State) : s.acknowledge.script = s.script := rfl
@[simp] theorem State.acknowledge_resp (s : State) : s.acknowledge.resp = s.resp := rfl

/-! ### `State.setStage` -/

@[simp] theorem State.setStage_params (s : State) (inb : List Byte) (stage : RunStage) : (s.setStage inb stage).params = s.params := rfl
@[simp] theorem State.setStage_job (s : State) (inb : List Byte) (stage : RunStage) : (s.setStage inb stage).job = some (.run inb stage) := rfl
@[simp] theorem State.setStage_done (s : State) (inb : List Byte) (stage : RunStage) : (s.setStage inb stage).done = s.done := rfl
@[simp] theorem State.setStage_err (s : State) (inb : List Byte) (stage : RunStage) : (s.setStage inb stage).err = s.err := rfl
@[simp] theorem State.setStage_viol (s : State) (inb : List Byte) (stage : RunStage) : (s.setStage inb stage).viol = s.viol := rfl
@[simp] theorem State.setStage_errinfo (s : State) (inb : List Byte) (stage : RunStage) : (s.setStage inb stage).errinfo = s.errinfo := rfl
@[simp] theorem State.setStage_errpos (s : State) (inb : List Byte) (stage : RunStage) : (s.setStage inb stage).errpos = s.errpos := rfl
@[simp] theorem State.setStage_inLen (s : State) (inb : List Byte) (stage : RunStage) : (s.setStage inb stage).inLen = s.inLen := rfl
@[simp] theorem State.setStage_width (s : State) (inb : List Byte) (stage : RunStage) : (s.setStage inb stage).width = s.width := rfl
@[simp] theorem State.setStage_height (s : State) (inb : List Byte) (stage : RunStage) : (s.setStage inb stage).height = s.height := rfl
@[simp] theorem State.setStage_outLen (s : State) (inb : List Byte) (stage : RunStage) : (s.setStage inb stage).outLen = s.outLen := rfl
@[simp] theorem State.setStage_pixR (s : State) (inb : List Byte) (stage : RunStage) : (s.setStage inb stage).pixR = s.pixR := rfl
@[simp] theorem State.setStage_pixG (s : State) (inb : List Byte) (stage : RunStage) : (s.setStage inb stage).pixG = s.pixG := rfl
@[simp] theorem State.setStage_pixB (s : State) (inb : List Byte) (stage : RunStage) : (s.setStage inb stage).pixB = s.pixB := rfl
@[simp] theorem State.setStage_pixOut (s : State) (inb : List Byte) (stage : RunStage) : (s.setStage inb stage).pixOut = s.pixOut := rfl
@[simp] theorem State.setStage_irqEn (s : State) (inb : List Byte) (stage : RunStage) : (s.setStage inb stage).irqEn = s.irqEn := rfl
@[simp] theorem State.setStage_inMem (s : State) (inb : List Byte) (stage : RunStage) : (s.setStage inb stage).inMem = s.inMem := rfl
@[simp] theorem State.setStage_outMem (s : State) (inb : List Byte) (stage : RunStage) : (s.setStage inb stage).outMem = s.outMem := rfl
@[simp] theorem State.setStage_inSeed (s : State) (inb : List Byte) (stage : RunStage) : (s.setStage inb stage).inSeed = s.inSeed := rfl
@[simp] theorem State.setStage_outSeed (s : State) (inb : List Byte) (stage : RunStage) : (s.setStage inb stage).outSeed = s.outSeed := rfl
@[simp] theorem State.setStage_draws (s : State) (inb : List Byte) (stage : RunStage) : (s.setStage inb stage).draws = s.draws := rfl
@[simp] theorem State.setStage_script (s : State) (inb : List Byte) (stage : RunStage) : (s.setStage inb stage).script = s.script := rfl
@[simp] theorem State.setStage_resp (s : State) (inb : List Byte) (stage : RunStage) : (s.setStage inb stage).resp = s.resp := rfl

/-! ### `State.fail` -/

@[simp] theorem State.fail_params (s : State) (dims : Option (Nat × Nat)) (why : Failure) : (s.fail dims why).params = s.params := rfl
@[simp] theorem State.fail_job (s : State) (dims : Option (Nat × Nat)) (why : Failure) : (s.fail dims why).job = none := rfl
@[simp] theorem State.fail_done (s : State) (dims : Option (Nat × Nat)) (why : Failure) : (s.fail dims why).done = false := rfl
@[simp] theorem State.fail_err (s : State) (dims : Option (Nat × Nat)) (why : Failure) : (s.fail dims why).err = true := rfl
@[simp] theorem State.fail_viol (s : State) (dims : Option (Nat × Nat)) (why : Failure) : (s.fail dims why).viol = s.viol := rfl
@[simp] theorem State.fail_errinfo (s : State) (dims : Option (Nat × Nat)) (why : Failure) : (s.fail dims why).errinfo = why.detail.errinfo := rfl
@[simp] theorem State.fail_errpos (s : State) (dims : Option (Nat × Nat)) (why : Failure) : (s.fail dims why).errpos = BitVec.ofNat 32 why.pos := rfl
@[simp] theorem State.fail_inLen (s : State) (dims : Option (Nat × Nat)) (why : Failure) : (s.fail dims why).inLen = s.inLen := rfl
@[simp] theorem State.fail_width (s : State) (dims : Option (Nat × Nat)) (why : Failure) : (s.fail dims why).width = dimsWidth dims := rfl
@[simp] theorem State.fail_height (s : State) (dims : Option (Nat × Nat)) (why : Failure) : (s.fail dims why).height = dimsHeight dims := rfl
@[simp] theorem State.fail_outLen (s : State) (dims : Option (Nat × Nat)) (why : Failure) : (s.fail dims why).outLen = 0#32 := rfl
@[simp] theorem State.fail_pixR (s : State) (dims : Option (Nat × Nat)) (why : Failure) : (s.fail dims why).pixR = s.pixR := rfl
@[simp] theorem State.fail_pixG (s : State) (dims : Option (Nat × Nat)) (why : Failure) : (s.fail dims why).pixG = s.pixG := rfl
@[simp] theorem State.fail_pixB (s : State) (dims : Option (Nat × Nat)) (why : Failure) : (s.fail dims why).pixB = s.pixB := rfl
@[simp] theorem State.fail_pixOut (s : State) (dims : Option (Nat × Nat)) (why : Failure) : (s.fail dims why).pixOut = s.pixOut := rfl
@[simp] theorem State.fail_irqEn (s : State) (dims : Option (Nat × Nat)) (why : Failure) : (s.fail dims why).irqEn = s.irqEn := rfl
@[simp] theorem State.fail_inMem (s : State) (dims : Option (Nat × Nat)) (why : Failure) : (s.fail dims why).inMem = s.inMem := rfl
@[simp] theorem State.fail_outMem (s : State) (dims : Option (Nat × Nat)) (why : Failure) : (s.fail dims why).outMem = [] := rfl
@[simp] theorem State.fail_inSeed (s : State) (dims : Option (Nat × Nat)) (why : Failure) : (s.fail dims why).inSeed = s.inSeed := rfl
@[simp] theorem State.fail_outSeed (s : State) (dims : Option (Nat × Nat)) (why : Failure) : (s.fail dims why).outSeed = s.outSeed := rfl
@[simp] theorem State.fail_draws (s : State) (dims : Option (Nat × Nat)) (why : Failure) : (s.fail dims why).draws = s.draws := rfl
@[simp] theorem State.fail_script (s : State) (dims : Option (Nat × Nat)) (why : Failure) : (s.fail dims why).script = s.script := rfl
@[simp] theorem State.fail_resp (s : State) (dims : Option (Nat × Nat)) (why : Failure) : (s.fail dims why).resp = s.resp := rfl

/-! ### `State.publishFile` -/

@[simp] theorem State.publishFile_params (s : State) (w h : Nat) (file : List Byte) : (s.publishFile w h file).params = s.params := rfl
@[simp] theorem State.publishFile_job (s : State) (w h : Nat) (file : List Byte) : (s.publishFile w h file).job = none := rfl
@[simp] theorem State.publishFile_done (s : State) (w h : Nat) (file : List Byte) : (s.publishFile w h file).done = true := rfl
@[simp] theorem State.publishFile_err (s : State) (w h : Nat) (file : List Byte) : (s.publishFile w h file).err = s.err := rfl
@[simp] theorem State.publishFile_viol (s : State) (w h : Nat) (file : List Byte) : (s.publishFile w h file).viol = s.viol := rfl
@[simp] theorem State.publishFile_errinfo (s : State) (w h : Nat) (file : List Byte) : (s.publishFile w h file).errinfo = s.errinfo := rfl
@[simp] theorem State.publishFile_errpos (s : State) (w h : Nat) (file : List Byte) : (s.publishFile w h file).errpos = s.errpos := rfl
@[simp] theorem State.publishFile_inLen (s : State) (w h : Nat) (file : List Byte) : (s.publishFile w h file).inLen = s.inLen := rfl
@[simp] theorem State.publishFile_width (s : State) (w h : Nat) (file : List Byte) : (s.publishFile w h file).width = BitVec.ofNat 16 w := rfl
@[simp] theorem State.publishFile_height (s : State) (w h : Nat) (file : List Byte) : (s.publishFile w h file).height = BitVec.ofNat 16 h := rfl
@[simp] theorem State.publishFile_outLen (s : State) (w h : Nat) (file : List Byte) : (s.publishFile w h file).outLen = BitVec.ofNat 32 file.length := rfl
@[simp] theorem State.publishFile_pixR (s : State) (w h : Nat) (file : List Byte) : (s.publishFile w h file).pixR = s.pixR := rfl
@[simp] theorem State.publishFile_pixG (s : State) (w h : Nat) (file : List Byte) : (s.publishFile w h file).pixG = s.pixG := rfl
@[simp] theorem State.publishFile_pixB (s : State) (w h : Nat) (file : List Byte) : (s.publishFile w h file).pixB = s.pixB := rfl
@[simp] theorem State.publishFile_pixOut (s : State) (w h : Nat) (file : List Byte) : (s.publishFile w h file).pixOut = s.pixOut := rfl
@[simp] theorem State.publishFile_irqEn (s : State) (w h : Nat) (file : List Byte) : (s.publishFile w h file).irqEn = s.irqEn := rfl
@[simp] theorem State.publishFile_inMem (s : State) (w h : Nat) (file : List Byte) : (s.publishFile w h file).inMem = s.inMem := rfl
@[simp] theorem State.publishFile_outMem (s : State) (w h : Nat) (file : List Byte) : (s.publishFile w h file).outMem = cellsFrom 0 file := rfl
@[simp] theorem State.publishFile_inSeed (s : State) (w h : Nat) (file : List Byte) : (s.publishFile w h file).inSeed = s.inSeed := rfl
@[simp] theorem State.publishFile_outSeed (s : State) (w h : Nat) (file : List Byte) : (s.publishFile w h file).outSeed = s.outSeed := rfl
@[simp] theorem State.publishFile_draws (s : State) (w h : Nat) (file : List Byte) : (s.publishFile w h file).draws = s.draws := rfl
@[simp] theorem State.publishFile_script (s : State) (w h : Nat) (file : List Byte) : (s.publishFile w h file).script = s.script := rfl
@[simp] theorem State.publishFile_resp (s : State) (w h : Nat) (file : List Byte) : (s.publishFile w h file).resp = s.resp := rfl

/-! ### `State.publishPixel` -/

@[simp] theorem State.publishPixel_params (s : State) (px : Rgbm) : (s.publishPixel px).params = s.params := rfl
@[simp] theorem State.publishPixel_job (s : State) (px : Rgbm) : (s.publishPixel px).job = none := rfl
@[simp] theorem State.publishPixel_done (s : State) (px : Rgbm) : (s.publishPixel px).done = true := rfl
@[simp] theorem State.publishPixel_err (s : State) (px : Rgbm) : (s.publishPixel px).err = s.err := rfl
@[simp] theorem State.publishPixel_viol (s : State) (px : Rgbm) : (s.publishPixel px).viol = s.viol := rfl
@[simp] theorem State.publishPixel_errinfo (s : State) (px : Rgbm) : (s.publishPixel px).errinfo = s.errinfo := rfl
@[simp] theorem State.publishPixel_errpos (s : State) (px : Rgbm) : (s.publishPixel px).errpos = s.errpos := rfl
@[simp] theorem State.publishPixel_inLen (s : State) (px : Rgbm) : (s.publishPixel px).inLen = s.inLen := rfl
@[simp] theorem State.publishPixel_width (s : State) (px : Rgbm) : (s.publishPixel px).width = s.width := rfl
@[simp] theorem State.publishPixel_height (s : State) (px : Rgbm) : (s.publishPixel px).height = s.height := rfl
@[simp] theorem State.publishPixel_outLen (s : State) (px : Rgbm) : (s.publishPixel px).outLen = s.outLen := rfl
@[simp] theorem State.publishPixel_pixR (s : State) (px : Rgbm) : (s.publishPixel px).pixR = s.pixR := rfl
@[simp] theorem State.publishPixel_pixG (s : State) (px : Rgbm) : (s.publishPixel px).pixG = s.pixG := rfl
@[simp] theorem State.publishPixel_pixB (s : State) (px : Rgbm) : (s.publishPixel px).pixB = s.pixB := rfl
@[simp] theorem State.publishPixel_pixOut (s : State) (px : Rgbm) : (s.publishPixel px).pixOut = px.word := rfl
@[simp] theorem State.publishPixel_irqEn (s : State) (px : Rgbm) : (s.publishPixel px).irqEn = s.irqEn := rfl
@[simp] theorem State.publishPixel_inMem (s : State) (px : Rgbm) : (s.publishPixel px).inMem = s.inMem := rfl
@[simp] theorem State.publishPixel_outMem (s : State) (px : Rgbm) : (s.publishPixel px).outMem = s.outMem := rfl
@[simp] theorem State.publishPixel_inSeed (s : State) (px : Rgbm) : (s.publishPixel px).inSeed = s.inSeed := rfl
@[simp] theorem State.publishPixel_outSeed (s : State) (px : Rgbm) : (s.publishPixel px).outSeed = s.outSeed := rfl
@[simp] theorem State.publishPixel_draws (s : State) (px : Rgbm) : (s.publishPixel px).draws = s.draws := rfl
@[simp] theorem State.publishPixel_script (s : State) (px : Rgbm) : (s.publishPixel px).script = s.script := rfl
@[simp] theorem State.publishPixel_resp (s : State) (px : Rgbm) : (s.publishPixel px).resp = s.resp := rfl

/-! ### `State.drawWord` -/

@[simp] theorem State.drawWord_params (s : State) : s.drawWord.params = s.params := rfl
@[simp] theorem State.drawWord_job (s : State) : s.drawWord.job = s.job := rfl
@[simp] theorem State.drawWord_done (s : State) : s.drawWord.done = s.done := rfl
@[simp] theorem State.drawWord_err (s : State) : s.drawWord.err = s.err := rfl
@[simp] theorem State.drawWord_viol (s : State) : s.drawWord.viol = s.viol := rfl
@[simp] theorem State.drawWord_errinfo (s : State) : s.drawWord.errinfo = s.errinfo := rfl
@[simp] theorem State.drawWord_errpos (s : State) : s.drawWord.errpos = s.errpos := rfl
@[simp] theorem State.drawWord_inLen (s : State) : s.drawWord.inLen = s.inLen := rfl
@[simp] theorem State.drawWord_width (s : State) : s.drawWord.width = s.width := rfl
@[simp] theorem State.drawWord_height (s : State) : s.drawWord.height = s.height := rfl
@[simp] theorem State.drawWord_outLen (s : State) : s.drawWord.outLen = s.outLen := rfl
@[simp] theorem State.drawWord_pixR (s : State) : s.drawWord.pixR = s.pixR := rfl
@[simp] theorem State.drawWord_pixG (s : State) : s.drawWord.pixG = s.pixG := rfl
@[simp] theorem State.drawWord_pixB (s : State) : s.drawWord.pixB = s.pixB := rfl
@[simp] theorem State.drawWord_pixOut (s : State) : s.drawWord.pixOut = s.pixOut := rfl
@[simp] theorem State.drawWord_irqEn (s : State) : s.drawWord.irqEn = s.irqEn := rfl
@[simp] theorem State.drawWord_inMem (s : State) : s.drawWord.inMem = s.inMem := rfl
@[simp] theorem State.drawWord_outMem (s : State) : s.drawWord.outMem = s.outMem := rfl
@[simp] theorem State.drawWord_inSeed (s : State) : s.drawWord.inSeed = s.inSeed := rfl
@[simp] theorem State.drawWord_outSeed (s : State) : s.drawWord.outSeed = s.outSeed := rfl
@[simp] theorem State.drawWord_draws (s : State) : s.drawWord.draws = s.draws + 1 := rfl
@[simp] theorem State.drawWord_script (s : State) : s.drawWord.script = s.script := rfl
@[simp] theorem State.drawWord_resp (s : State) : s.drawWord.resp = .word (Config.freeWord s.draws) := rfl

/-! ### `State.drawByte` -/

@[simp] theorem State.drawByte_params (s : State) (a : Nat) : (s.drawByte a).params = s.params := rfl
@[simp] theorem State.drawByte_job (s : State) (a : Nat) : (s.drawByte a).job = s.job := rfl
@[simp] theorem State.drawByte_done (s : State) (a : Nat) : (s.drawByte a).done = s.done := rfl
@[simp] theorem State.drawByte_err (s : State) (a : Nat) : (s.drawByte a).err = s.err := rfl
@[simp] theorem State.drawByte_viol (s : State) (a : Nat) : (s.drawByte a).viol = s.viol := rfl
@[simp] theorem State.drawByte_errinfo (s : State) (a : Nat) : (s.drawByte a).errinfo = s.errinfo := rfl
@[simp] theorem State.drawByte_errpos (s : State) (a : Nat) : (s.drawByte a).errpos = s.errpos := rfl
@[simp] theorem State.drawByte_inLen (s : State) (a : Nat) : (s.drawByte a).inLen = s.inLen := rfl
@[simp] theorem State.drawByte_width (s : State) (a : Nat) : (s.drawByte a).width = s.width := rfl
@[simp] theorem State.drawByte_height (s : State) (a : Nat) : (s.drawByte a).height = s.height := rfl
@[simp] theorem State.drawByte_outLen (s : State) (a : Nat) : (s.drawByte a).outLen = s.outLen := rfl
@[simp] theorem State.drawByte_pixR (s : State) (a : Nat) : (s.drawByte a).pixR = s.pixR := rfl
@[simp] theorem State.drawByte_pixG (s : State) (a : Nat) : (s.drawByte a).pixG = s.pixG := rfl
@[simp] theorem State.drawByte_pixB (s : State) (a : Nat) : (s.drawByte a).pixB = s.pixB := rfl
@[simp] theorem State.drawByte_pixOut (s : State) (a : Nat) : (s.drawByte a).pixOut = s.pixOut := rfl
@[simp] theorem State.drawByte_irqEn (s : State) (a : Nat) : (s.drawByte a).irqEn = s.irqEn := rfl
@[simp] theorem State.drawByte_inMem (s : State) (a : Nat) : (s.drawByte a).inMem = s.inMem := rfl
@[simp] theorem State.drawByte_outMem (s : State) (a : Nat) : (s.drawByte a).outMem = s.outMem := rfl
@[simp] theorem State.drawByte_inSeed (s : State) (a : Nat) : (s.drawByte a).inSeed = s.inSeed := rfl
@[simp] theorem State.drawByte_outSeed (s : State) (a : Nat) : (s.drawByte a).outSeed = s.outSeed := rfl
@[simp] theorem State.drawByte_draws (s : State) (a : Nat) : (s.drawByte a).draws = s.draws + 1 := rfl
@[simp] theorem State.drawByte_script (s : State) (a : Nat) : (s.drawByte a).script = s.script := rfl
@[simp] theorem State.drawByte_resp (s : State) (a : Nat) : (s.drawByte a).resp = .byte (Config.freeByte s.draws a) := rfl

/-! ### The execution state -/

theorem State.execState_idle_iff (s : State) : s.execState = .idle ↔ s.job = none := by
  cases h : s.job <;> simp [State.execState, h]

theorem State.execState_busy_iff (s : State) : s.execState = .busy ↔ s.busy = true := by
  cases h : s.job <;> simp [State.execState, State.busy, h]

theorem State.busy_eq_false_iff (s : State) : s.busy = false ↔ s.job = none := by
  cases h : s.job <;> simp [State.busy, h]

@[simp] theorem State.busy_setStage (s : State) (inb : List Byte) (stage : RunStage) :
    (s.setStage inb stage).busy = true := rfl

@[simp] theorem State.busy_violate (s : State) : s.violate.busy = s.busy := rfl

/-- A byte of IN depends on the IN memory and its draw alone. -/
theorem State.inByte_congr {s t : State} (hm : t.inMem = s.inMem) (hs : t.inSeed = s.inSeed) (a : Nat) :
    t.inByte a = s.inByte a := by
  simp [State.inByte, hm, hs]

/-- A byte of OUT depends on the OUT memory and its draw alone. -/
theorem State.outByte_congr {s t : State} (hm : t.outMem = s.outMem) (hs : t.outSeed = s.outSeed) (a : Nat) :
    t.outByte a = s.outByte a := by
  simp [State.outByte, hm, hs]

/-- What a RUN captures depends on IN_LEN and the bytes of IN alone. -/
theorem State.captureIn_congr {s t : State} (hl : t.inLen = s.inLen) (hm : t.inMem = s.inMem)
    (hs : t.inSeed = s.inSeed) : t.captureIn = s.captureIn := by
  simp [State.captureIn, hl, funext (State.inByte_congr hm hs)]

/-- The issue rule, while BUSY. -/
theorem State.issue_of_busy {s : State} (h : s.busy = true) (f : State → State) :
    s.issue f = .next s.violate := by
  simp [State.issue, h]

/-- The issue rule, in IDLE. -/
theorem State.issue_of_idle {s : State} (h : s.busy = false) (f : State → State) :
    s.issue f = .next (f s) := by
  simp [State.issue, h]

/-- All the issue of a command can do. -/
theorem State.issue_cases {s t : State} {f : State → State} (h : s.issue f = .next t) :
    (s.busy = true ∧ t = s.violate) ∨ (s.busy = false ∧ t = f s) := by
  cases hb : s.busy
  · rw [State.issue_of_idle hb] at h; exact .inr ⟨rfl, (Host.Outcome.next.inj h).symm⟩
  · rw [State.issue_of_busy hb] at h; exact .inl ⟨rfl, (Host.Outcome.next.inj h).symm⟩

/-- A write that BUSY drops, as one of two states. -/
theorem State.unlessBusy_cases (s : State) (f : State → State) :
    (s.busy = true ∧ s.unlessBusy f = s.violate) ∨ (s.busy = false ∧ s.unlessBusy f = f s) := by
  cases hb : s.busy <;> simp [State.unlessBusy, hb]

end Sys2Proof.Machine
end

