-- ==== Sys2Proof/Laws/Exec.lean ====
section
/-! SUPPORT. What the shared operations under the tokens can do, said once: a token that answers a next state
found the sequencer where that token is read, and changed the stage of the RUN in flight only. -/
namespace Sys2Proof.Machine

/-! ### The arms -/

@[simp] theorem exec_nop (g : BitVec 24) (s : State) : exec (.nop g) s = s.issue (fun s => s) := rfl

@[simp] theorem exec_clear (g : BitVec 24) (s : State) :
    exec (.clear g) s = s.issue (fun s => { s.acknowledge with viol := false }) := rfl

@[simp] theorem exec_encodePixel (g : BitVec 24) (s : State) :
    exec (.encodePixel g) s =
      s.issue (fun s => { s.acknowledge with job := some (.encode s.pixR s.pixG s.pixB) }) := rfl

@[simp] theorem exec_run (g : BitVec 24) (s : State) :
    exec (.run g) s = s.issue (fun s =>
      { s.acknowledge with
        width := 0#16, height := 0#16, outLen := 0#32, outMem := [], outSeed := s.draws
        draws := s.draws + 1, job := some (.run s.captureIn .header) }) := rfl

@[simp] theorem exec_reserved0407 (x : BitVec 2) (g : BitVec 24) (s : State) :
    exec (.reserved0407 x g) s = s.issue State.violate := rfl

@[simp] theorem exec_reserved080F (x : BitVec 3) (g : BitVec 24) (s : State) :
    exec (.reserved080F x g) s = s.issue State.violate := rfl

@[simp] theorem exec_reserved101F (x : BitVec 4) (g : BitVec 24) (s : State) :
    exec (.reserved101F x g) s = s.issue State.violate := rfl

@[simp] theorem exec_reserved203F (x : BitVec 5) (g : BitVec 24) (s : State) :
    exec (.reserved203F x g) s = s.issue State.violate := rfl

@[simp] theorem exec_reserved407F (x : BitVec 6) (g : BitVec 24) (s : State) :
    exec (.reserved407F x g) s = s.issue State.violate := rfl

@[simp] theorem exec_reserved80FF (x : BitVec 7) (g : BitVec 24) (s : State) :
    exec (.reserved80FF x g) s = s.issue State.violate := rfl

@[simp] theorem exec_scanlineMarker (h : BitVec 7) (l : BitVec 8) (s : State) :
    exec (.scanlineMarker h l) s =
      s.atRowStart (fun inb q => q.takeMarker inb.length (markerWidth h l)) := rfl

@[simp] theorem exec_rleRun (n : BitVec 7) (v : Byte) (s : State) :
    exec (.rleRun n v) s =
      s.inPlane (fun inb q k buf => q.takePacket inb.length k buf 2 (List.replicate n.toNat v)) := rfl

@[simp] theorem exec_rleLiteral (bytes : List Byte) (s : State) :
    exec (.rleLiteral bytes) s =
      s.inPlane (fun inb q k buf => q.takePacket inb.length k buf (1 + bytes.length) bytes) := rfl

@[simp] theorem exec_rleLiteral128 (bytes : List Byte) (s : State) :
    exec (.rleLiteral128 bytes) s =
      s.inPlane (fun inb q k buf => q.takePacket inb.length k buf (1 + bytes.length) bytes) := rfl

@[simp] theorem exec_flatPixel (r g b e : Byte) (s : State) :
    exec (.flatPixel r g b e) s =
      s.inRow (fun inb q row => q.takePixel inb.length row ⟨r, g, b, e⟩) := rfl

/-! ### Where a token is read -/

theorem State.inPlane_of {s : State} {inb : List Byte} {q : Seq} {k : Plane} {buf : PlaneBuf}
    (hj : s.job = some (.run inb (.scanlines q))) (hp : q.phase = .planes k buf)
    (f : List Byte → Seq → Plane → PlaneBuf → RunStage) :
    s.inPlane f = .next (s.setStage inb (f inb q k buf)) := by
  simp [State.inPlane, hj, hp]

theorem State.inRow_of_start {s : State} {inb : List Byte} {q : Seq}
    (hj : s.job = some (.run inb (.scanlines q))) (hp : q.phase = .start)
    (f : List Byte → Seq → List Rgbe → RunStage) :
    s.inRow f = .next (s.setStage inb (f inb q [])) := by
  simp [State.inRow, hj, hp]

theorem State.inRow_of_flat {s : State} {inb : List Byte} {q : Seq} {row : List Rgbe}
    (hj : s.job = some (.run inb (.scanlines q))) (hp : q.phase = .flat row)
    (f : List Byte → Seq → List Rgbe → RunStage) :
    s.inRow f = .next (s.setStage inb (f inb q row)) := by
  simp [State.inRow, hj, hp]

theorem State.atRowStart_of {s : State} {inb : List Byte} {q : Seq}
    (hj : s.job = some (.run inb (.scanlines q))) (hp : q.phase = .start)
    (hw : Config.rleEligible q.w = true) (f : List Byte → Seq → RunStage) :
    s.atRowStart f = .next (s.setStage inb (f inb q)) := by
  simp only [State.atRowStart, hj, hp, hw, if_true]

/-- All a token read inside a plane can do. -/
theorem State.inPlane_cases {s t : State} {f : List Byte → Seq → Plane → PlaneBuf → RunStage}
    (h : s.inPlane f = .next t) :
    ∃ inb q k buf, s.job = some (.run inb (.scanlines q)) ∧ q.phase = .planes k buf ∧
      t = s.setStage inb (f inb q k buf) := by
  unfold State.inPlane at h
  split at h
  · rename_i inb q hj
    split at h
    · rename_i k buf hp
      exact ⟨inb, q, k, buf, hj, hp, (Host.Outcome.next.inj h).symm⟩
    · cases h
    · cases h
  · cases h

/-- All a flat pixel can do; `row` is what its scanline holds. -/
theorem State.inRow_cases {s t : State} {f : List Byte → Seq → List Rgbe → RunStage}
    (h : s.inRow f = .next t) :
    ∃ inb q row, s.job = some (.run inb (.scanlines q)) ∧
      ((q.phase = .start ∧ row = []) ∨ q.phase = .flat row) ∧ t = s.setStage inb (f inb q row) := by
  unfold State.inRow at h
  split at h
  · rename_i inb q hj
    split at h
    · rename_i hp
      exact ⟨inb, q, [], hj, .inl ⟨hp, rfl⟩, (Host.Outcome.next.inj h).symm⟩
    · rename_i row hp
      exact ⟨inb, q, row, hj, .inr hp, (Host.Outcome.next.inj h).symm⟩
    · cases h
  · cases h

/-- All a marker can do. -/
theorem State.atRowStart_cases {s t : State} {f : List Byte → Seq → RunStage}
    (h : s.atRowStart f = .next t) :
    ∃ inb q, s.job = some (.run inb (.scanlines q)) ∧ q.phase = .start ∧
      Config.rleEligible q.w = true ∧ t = s.setStage inb (f inb q) := by
  unfold State.atRowStart at h
  split at h
  · rename_i inb q hj
    split at h
    · rename_i hp
      split at h
      · rename_i hw
        exact ⟨inb, q, hj, hp, hw, (Host.Outcome.next.inj h).symm⟩
      · cases h
    · cases h
    · cases h
  · cases h

/-! ### The planes -/

@[simp] theorem PlaneBuf.get_append_same (buf : PlaneBuf) (k : Plane) (bytes : List Byte) :
    (buf.append k bytes).get k = buf.get k ++ bytes := by
  cases k <;> rfl

/-- Filling one plane leaves the others. -/
theorem PlaneBuf.get_append_other (buf : PlaneBuf) {k k' : Plane} (bytes : List Byte) (h : k' ≠ k) :
    (buf.append k bytes).get k' = buf.get k' := by
  cases k <;> cases k' <;> first | rfl | exact absurd rfl h

@[simp] theorem Seq.fill_planes (q : Seq) {k : Plane} {buf : PlaneBuf} (h : q.phase = .planes k buf) :
    q.fill = (buf.get k).length := by
  simp [Seq.fill, h]

/-- Zipping four planes of one length gives a row of that length. -/
theorem length_zipPlanes {n : Nat} {r g b e : List Byte} (hr : r.length = n) (hg : g.length = n)
    (hb : b.length = n) (he : e.length = n) : (zipPlanes r g b e).length = n := by
  induction n generalizing r g b e with
  | zero =>
    rw [List.length_eq_zero_iff] at hr
    subst hr
    rfl
  | succ n ih =>
    match r, g, b, e, hr, hg, hb, he with
    | _ :: _, _ :: _, _ :: _, _ :: _, hr, hg, hb, he =>
      simp only [List.length_cons, Nat.add_right_cancel_iff] at hr hg hb he
      simp [zipPlanes, ih hr hg hb he]

/-! ### A packet, by what its guard says (rules R133, R134, R195) -/

/-- Pixel `x` of a scanline is the quadruplet of its planes at `x` (41_rgbe_decoder.md rule R135). -/
theorem getElem?_zipPlanes {r g b e : List Byte} {x : Nat} {r' g' b' e' : Byte} (hr : r[x]? = some r')
    (hg : g[x]? = some g') (hb : b[x]? = some b') (he : e[x]? = some e') :
    (zipPlanes r g b e)[x]? = some ⟨r', g', b', e'⟩ := by
  induction r generalizing g b e x with
  | nil => simp at hr
  | cons r0 rs ih =>
    rcases g with _ | ⟨g0, gs⟩
    · simp at hg
    rcases b with _ | ⟨b0, bs⟩
    · simp at hb
    rcases e with _ | ⟨e0, es⟩
    · simp at he
    cases x with
    | zero => simp_all [zipPlanes]
    | succ x =>
      simp only [List.getElem?_cons_succ, zipPlanes] at hr hg hb he ⊢
      exact ih hr hg hb he

theorem Seq.takePacket_overrun {q : Seq} {k : Plane} {buf : PlaneBuf} (L size : Nat) {values : List Byte}
    (hp : q.phase = .planes k buf) (h : q.w < (buf.get k).length + values.length) :
    q.takePacket L k buf size values = q.raise ⟨.rleOverrun, q.p⟩ := by
  simp [Seq.takePacket, Seq.packetError, Seq.fill_planes q hp, h]

theorem Seq.takePacket_short {q : Seq} {k : Plane} {buf : PlaneBuf} {L size : Nat} {values : List Byte}
    (hp : q.phase = .planes k buf) (h : (buf.get k).length + values.length ≤ q.w) (hl : L < q.p + size) :
    q.takePacket L k buf size values = q.raise ⟨.eofRle, L⟩ := by
  simp [Seq.takePacket, Seq.packetError, Seq.fill_planes q hp, Nat.not_lt.2 h, hl]

theorem Seq.takePacket_fits {q : Seq} {k : Plane} {buf : PlaneBuf} {L size : Nat} {values : List Byte}
    (hp : q.phase = .planes k buf) (h : (buf.get k).length + values.length ≤ q.w) (hl : q.p + size ≤ L) :
    q.takePacket L k buf size values = Seq.fillPlane { q with p := q.p + size } k buf values := by
  simp [Seq.takePacket, Seq.packetError, Seq.fill_planes q hp, Nat.not_lt.2 h, Nat.not_lt.2 hl]

end Sys2Proof.Machine
end

