-- ==== Sys2Proof/Laws/Memory.lean ====
section
/-! SUPPORT. The laws of a memory: a read after a write, and that every operation keeps the form. -/
namespace Sys2Proof.Machine

@[simp] theorem Memory.find_nil (a : Nat) : Memory.find [] a = none := rfl

theorem Memory.find_cons (c : Host.Cell) (rest : Memory) (a : Nat) :
    Memory.find (c :: rest) a = if c.1 = a then some c.2 else Memory.find rest a := rfl

/-- A read after a write to the same place gives the value written. -/
@[simp] theorem Memory.find_store_same (m : Memory) (a : Nat) (b : Byte) :
    Memory.find (Memory.store m a b) a = some b := by
  induction m with
  | nil => simp [Memory.store, Memory.find_cons]
  | cons c rest ih =>
    simp only [Memory.store]
    split
    · simp [Memory.find_cons]
    · split
      · simp [Memory.find_cons]
      · rename_i h1 h2
        rw [Memory.find_cons, if_neg (fun h => h2 h.symm), ih]

/-- A write leaves every other place alone. -/
theorem Memory.find_store_other (m : Memory) {a a' : Nat} (b : Byte) (h : a' ≠ a) :
    Memory.find (Memory.store m a b) a' = Memory.find m a' := by
  induction m with
  | nil => simp [Memory.store, Memory.find_cons, Ne.symm h]
  | cons c rest ih =>
    simp only [Memory.store]
    split
    · rw [Memory.find_cons, if_neg (Ne.symm h)]
    · split
      · rename_i h1 h2
        rw [Memory.find_cons, if_neg (Ne.symm h), Memory.find_cons, if_neg (h2 ▸ Ne.symm h)]
      · rw [Memory.find_cons, Memory.find_cons, ih]

/-- The form, as a statement about the addresses. -/
theorem Memory.wf_iff (m : Memory) :
    Memory.wf m = true ↔ (m.map Prod.fst).Pairwise (· < ·) := by
  induction m with
  | nil => simp [Memory.wf]
  | cons c rest ih =>
    cases rest with
    | nil => simp [Memory.wf]
    | cons d rest =>
      simp only [Memory.wf, Bool.and_eq_true, decide_eq_true_eq, ih, List.map_cons, List.pairwise_cons,
        List.mem_cons, forall_eq_or_imp]
      constructor
      · rintro ⟨hcd, hd, hrest⟩
        exact ⟨⟨hcd, fun x hx => Nat.lt_trans hcd (hd x hx)⟩, hd, hrest⟩
      · rintro ⟨⟨hcd, -⟩, hd, hrest⟩
        exact ⟨hcd, hd, hrest⟩

/-- The addresses a write leaves are the old ones and its own. -/
theorem Memory.mem_store {m : Memory} {a : Nat} {b : Byte} {c : Host.Cell} (h : c ∈ Memory.store m a b) :
    c.1 = a ∨ c ∈ m := by
  induction m with
  | nil => simp [Memory.store] at h; exact .inl (by rw [h])
  | cons d rest ih =>
    simp only [Memory.store] at h
    split at h
    · rcases List.mem_cons.1 h with h | h
      · exact .inl (by rw [h])
      · exact .inr h
    · split at h
      · rcases List.mem_cons.1 h with h | h
        · exact .inl (by rw [h])
        · exact .inr (List.mem_cons_of_mem _ h)
      · rcases List.mem_cons.1 h with h | h
        · exact .inr (h ▸ List.mem_cons_self)
        · exact (ih h).imp_right (List.mem_cons_of_mem _)

/-- A write keeps the form. -/
theorem Memory.wf_store {m : Memory} (a : Nat) (b : Byte) (h : Memory.wf m = true) :
    Memory.wf (Memory.store m a b) = true := by
  rw [Memory.wf_iff] at h ⊢
  induction m with
  | nil => simp [Memory.store]
  | cons c rest ih =>
    obtain ⟨hc, hrest⟩ := List.pairwise_cons.1 h
    simp only [Memory.store]
    split
    · rename_i hlt
      refine List.pairwise_cons.2 ⟨fun x hx => ?_, h⟩
      rcases List.mem_cons.1 hx with hx | hx
      · exact hx ▸ hlt
      · exact Nat.lt_trans hlt (hc x hx)
    · split
      · rename_i heq
        exact List.pairwise_cons.2 ⟨fun x hx => heq ▸ hc x hx, hrest⟩
      · rename_i h1 h2
        refine List.pairwise_cons.2 ⟨fun x hx => ?_, ih hrest⟩
        obtain ⟨y, hy, rfl⟩ := List.mem_map.1 hx
        rcases Memory.mem_store hy with hy | hy
        · omega
        · exact hc _ (List.mem_map.2 ⟨y, hy, rfl⟩)

/-- A file's addresses are consecutive. -/
theorem map_fst_cellsFrom (a : Nat) (file : List Byte) :
    (cellsFrom a file).map Prod.fst = List.range' a file.length := by
  induction file generalizing a with
  | nil => rfl
  | cons b rest ih => simp [cellsFrom, ih, List.range'_succ]

/-- A published file has the form. -/
theorem wf_cellsFrom (a : Nat) (file : List Byte) : Memory.wf (cellsFrom a file) = true := by
  rw [Memory.wf_iff, map_fst_cellsFrom]
  exact List.pairwise_lt_range'

/-- A published file reads back byte by byte. -/
theorem find_cellsFrom (start : Nat) (file : List Byte) (i : Nat) :
    Memory.find (cellsFrom start file) (start + i) = file[i]? := by
  induction file generalizing start i with
  | nil => simp [cellsFrom]
  | cons b rest ih =>
    cases i with
    | zero => simp [cellsFrom, Memory.find_cons]
    | succ i =>
      rw [cellsFrom, Memory.find_cons, if_neg (by simp), show start + (i + 1) = start + 1 + i by omega, ih]
      simp

end Sys2Proof.Machine
end

