-- ==== Sys2Proof/Laws/PerInstr.lean ====
section
/-! SUPPORT. What holds of every instruction as syntax, one lemma a constructor. -/
namespace Sys2Proof.Laws.TokenSize

/-- A command takes no byte of the stream; a well-formed token takes between one and 129 bytes, and no packet
fills more than 128 values (30_encoding.md rules R80, R86 to R88). -/
def Statement (i : Instr) : Prop :=
  i.wf = true →
    (i.isCommand = true → i.size = 0) ∧ (i.isCommand = false → 1 ≤ i.size ∧ i.size ≤ 129) ∧
    (Machine.packetValues i).length ≤ 128

theorem nop (g : BitVec 24) : Statement (.nop g) := by
  simp [Statement, Instr.isCommand, Instr.size, Machine.packetValues]

theorem run (g : BitVec 24) : Statement (.run g) := by
  simp [Statement, Instr.isCommand, Instr.size, Machine.packetValues]

theorem encodePixel (g : BitVec 24) : Statement (.encodePixel g) := by
  simp [Statement, Instr.isCommand, Instr.size, Machine.packetValues]

theorem clear (g : BitVec 24) : Statement (.clear g) := by
  simp [Statement, Instr.isCommand, Instr.size, Machine.packetValues]

theorem reserved0407 (x : BitVec 2) (g : BitVec 24) : Statement (.reserved0407 x g) := by
  simp [Statement, Instr.isCommand, Instr.size, Machine.packetValues]

theorem reserved080F (x : BitVec 3) (g : BitVec 24) : Statement (.reserved080F x g) := by
  simp [Statement, Instr.isCommand, Instr.size, Machine.packetValues]

theorem reserved101F (x : BitVec 4) (g : BitVec 24) : Statement (.reserved101F x g) := by
  simp [Statement, Instr.isCommand, Instr.size, Machine.packetValues]

theorem reserved203F (x : BitVec 5) (g : BitVec 24) : Statement (.reserved203F x g) := by
  simp [Statement, Instr.isCommand, Instr.size, Machine.packetValues]

theorem reserved407F (x : BitVec 6) (g : BitVec 24) : Statement (.reserved407F x g) := by
  simp [Statement, Instr.isCommand, Instr.size, Machine.packetValues]

theorem reserved80FF (x : BitVec 7) (g : BitVec 24) : Statement (.reserved80FF x g) := by
  simp [Statement, Instr.isCommand, Instr.size, Machine.packetValues]

theorem scanlineMarker (h : BitVec 7) (l : BitVec 8) : Statement (.scanlineMarker h l) := by
  simp [Statement, Instr.isCommand, Instr.size, Machine.packetValues]

theorem rleRun (n : BitVec 7) (v : Byte) : Statement (.rleRun n v) := by
  have := n.isLt
  intro _
  simp only [Instr.isCommand, Instr.size, Machine.packetValues, List.length_replicate]
  exact ⟨nofun, fun _ => ⟨by omega, by omega⟩, by omega⟩

theorem rleLiteral (bytes : List Byte) : Statement (.rleLiteral bytes) := by
  intro h
  simp only [Instr.wf, decide_eq_true_eq] at h
  simp only [Instr.isCommand, Instr.size, Machine.packetValues]
  exact ⟨nofun, fun _ => ⟨by omega, by omega⟩, by omega⟩

theorem rleLiteral128 (bytes : List Byte) : Statement (.rleLiteral128 bytes) := by
  intro h
  simp only [Instr.wf, decide_eq_true_eq] at h
  simp only [Instr.isCommand, Instr.size, Machine.packetValues]
  exact ⟨nofun, fun _ => ⟨by omega, by omega⟩, by omega⟩

theorem flatPixel (r g b e : Byte) : Statement (.flatPixel r g b e) := by
  simp [Statement, Instr.isCommand, Instr.size, Machine.packetValues]

end Sys2Proof.Laws.TokenSize
end

