-- ==== Sys2Proof/Tests/Slice0.lean ====
section
/-! SUPPORT. Tests of the model, with the expected values of spec/opcode_table.json and spec/95_test_vectors.md;
and, for each statement that has hypotheses, states and operands that meet them. -/
namespace Sys2Proof.Tests

open Sys2Proof Sys2Proof.Machine

/-! ### Helpers -/

/-- A small legal instance, with a stride and workers that are not the least. -/
def small : Params :=
  { maxW := 64, maxH := 64, inCap := 64, outCap := 4096, strideAlign := 16, workers := 2, tie := .away,
    baseReg := 0, baseIn := 0, baseOut := 0 }

/-- An idle block after reset. -/
def idle : State := State.resetWith small

/-- An idle block with bytes in IN. -/
def loaded (bytes : List Byte) : State :=
  { idle with inMem := cellsFrom 0 bytes, inLen := BitVec.ofNat 32 bytes.length }

/-- A RUN in flight over these bytes. -/
def running (bytes : List Byte) (stage : RunStage) : State :=
  { loaded bytes with job := some (.run bytes stage) }

/-- A RUN that is reading scanlines. -/
def reading (bytes : List Byte) (w h p y : Nat) (phase : Phase) (raster : List Rgb) : State :=
  running bytes (.scanlines ⟨w, h, p, y, phase, raster⟩)

/-- An ENCODE_PIXEL in flight. -/
def encoding (cr cg cb : Word) : State :=
  { idle with pixR := cr, pixG := cg, pixB := cb, job := some (.encode cr cg cb) }

/-- The outcome is a next state that passes. -/
def nextIs (o : Host.Outcome State Fault Refusal) (f : State → Bool) : Bool :=
  match o with
  | .next t => f t
  | .fault _ => false
  | .refused _ => false

/-- The outcome is a next state. -/
def isNext (o : Host.Outcome State Fault Refusal) : Bool := nextIs o fun _ => true

/-- The decoder answers this instruction. -/
def decodesTo (src : Source) (i : Instr) : Bool :=
  match decode src with
  | .ok j => decide (j = i)
  | .error _ => false

/-- The stage of the RUN in flight. -/
def stageOf (s : State) : Option RunStage :=
  match s.job with
  | some (.run _ stage) => some stage
  | some (.encode _ _ _) => none
  | none => none

/-- `"\n-Y 1 +X 1\n"` (RES11). -/
def res11 : List Byte :=
  [0x0A#8, 0x2D#8, 0x59#8, 0x20#8, 0x31#8, 0x20#8, 0x2B#8, 0x58#8, 0x20#8, 0x31#8, 0x0A#8]

/-- `"\n-Y 1 +X 8\n"` (RES18). -/
def res18 : List Byte :=
  [0x0A#8, 0x2D#8, 0x59#8, 0x20#8, 0x31#8, 0x20#8, 0x2B#8, 0x58#8, 0x20#8, 0x38#8, 0x0A#8]

/-- A black pixel. -/
def black : Rgb := ⟨0#32, 0#32, 0#32⟩

/-- A gray pixel of the input. -/
def gray : Rgbe := ⟨0x80#8, 0x80#8, 0x80#8, 0x80#8⟩

/-! ### Well-formedness -/

theorem test_run_of_zero_is_ill_formed : Instr.wf (.rleRun 0#7 1#8) = false := by decide
theorem test_run_of_127_is_well_formed : Instr.wf (.rleRun 127#7 1#8) = true := by decide
theorem test_literal_of_128_is_ill_formed : Instr.wf (.rleLiteral (List.replicate 128 0#8)) = false := by decide +kernel
theorem test_literal_of_127_is_well_formed : Instr.wf (.rleLiteral (List.replicate 127 0#8)) = true := by decide +kernel
theorem test_literal128_of_127_is_ill_formed :
    Instr.wf (.rleLiteral128 (List.replicate 127 0#8)) = false := by decide +kernel
theorem test_literal128_of_129_is_ill_formed :
    Instr.wf (.rleLiteral128 (List.replicate 129 0#8)) = false := by decide +kernel

/-! ### Decoding: words written out from the table's rows, the free bits not all zero -/

theorem test_decode_nop : decodeCommand 0b10100101_11110000_00001111_00000000#32 = .nop 0xA5F00F#24 := by decide
theorem test_decode_run : decodeCommand 0b00000000_00000000_00000001_00000001#32 = .run 1#24 := by decide
theorem test_decode_encode_pixel :
    decodeCommand 0b10000000_00000000_00000000_00000010#32 = .encodePixel 0x800000#24 := by decide
theorem test_decode_clear : decodeCommand 0b00000000_00000000_00000000_00000011#32 = .clear 0#24 := by decide
theorem test_decode_reserved_04_07 :
    decodeCommand 0b00000000_00000000_00000010_00000110#32 = .reserved0407 0b10#2 2#24 := by decide
theorem test_decode_reserved_08_0F :
    decodeCommand 0b00000000_00000000_00000000_00001110#32 = .reserved080F 0b110#3 0#24 := by decide
theorem test_decode_reserved_10_1F :
    decodeCommand 0b00000000_00000000_00000000_00011010#32 = .reserved101F 0b1010#4 0#24 := by decide
theorem test_decode_reserved_20_3F :
    decodeCommand 0b00000000_00000000_00000000_00110101#32 = .reserved203F 0b10101#5 0#24 := by decide
theorem test_decode_reserved_40_7F :
    decodeCommand 0b00000000_00000000_00000000_01100011#32 = .reserved407F 0b100011#6 0#24 := by decide
theorem test_decode_reserved_80_FF :
    decodeCommand 0b00000000_00000000_00000000_10000001#32 = .reserved80FF 0b0000001#7 0#24 := by decide
theorem test_decode_marker :
    decode (.rowStart true [0b00000010#8, 0b00000010#8, 0b01111111#8, 0b11111110#8, 7#8]) =
      .ok (.scanlineMarker 0x7F#7 0xFE#8) := rfl
theorem test_no_marker_with_bit_7_set :
    decode (.rowStart true [2#8, 2#8, 0x80#8, 8#8]) = .ok (.flatPixel 2#8 2#8 0x80#8 8#8) := rfl
theorem test_no_marker_at_other_widths :
    decode (.rowStart false [2#8, 2#8, 0#8, 4#8]) = .ok (.flatPixel 2#8 2#8 0#8 4#8) := rfl
theorem test_decode_rle_run :
    decode (.packet [0b10000101#8, 0x42#8, 9#8]) = .ok (.rleRun 5#7 0x42#8) := rfl
theorem test_decode_rle_literal :
    decode (.packet [0b00000010#8, 0x42#8, 0x43#8, 9#8]) = .ok (.rleLiteral [0x42#8, 0x43#8]) := rfl
theorem test_decode_rle_literal_128 :
    decodesTo (.packet (0b10000000#8 :: List.replicate 130 5#8)) (.rleLiteral128 (List.replicate 128 5#8)) = true := by
  decide +kernel
theorem test_decode_flat :
    decode (.flat [2#8, 2#8, 0#8, 8#8]) = .ok (.flatPixel 2#8 2#8 0#8 8#8) := rfl
theorem test_decode_short : decode (.flat [2#8, 2#8, 0#8]) = .error .shortPixel := rfl

/-! ### Table words -/

theorem test_table_word_run : decodeTableWord 32 0x01 = some (.run 0#24) := by decide
theorem test_table_word_reserved : decodeTableWord 32 0x81 = some (.reserved80FF 1#7 0#24) := by decide
theorem test_table_word_reserved_byte : decodeTableWord 8 0x81 = some (.reserved80FF 1#7 0#24) := by decide
theorem test_table_word_marker : decodeTableWord 32 0x02020008 = some (.scanlineMarker 0#7 8#8) := by decide
theorem test_table_word_literal_128 :
    decodeTableWord 8 0x80 = some (.rleLiteral128 (List.replicate 128 0#8)) := by decide +kernel
theorem test_table_word_rle_run : decodeTableWord 16 0x8807 = some (.rleRun 8#7 7#8) := by decide
theorem test_table_word_flat :
    decodeTableWord 32 0x80808080 = some (.flatPixel 0x80#8 0x80#8 0x80#8 0x80#8) := by decide

theorem test_placed_command_runs :
    nextIs (step (State.reset.withFetchWord 32 0x04)) (fun t => decide (t.status = 8#32)) = true := by decide
theorem test_placed_marker_runs :
    nextIs (step (State.reset.withFetchWord 32 0x02020008))
      (fun t => decide (stageOf t =
        some (.scanlines ⟨8, 1, 4, 0, .planes .r ⟨[], [], [], []⟩, []⟩))) = true := by decide +kernel
theorem test_placed_flat_pixel_runs :
    nextIs (step (State.reset.withFetchWord 32 0x80808080))
      (fun t => decide (stageOf t =
        some (.decoded ⟨1, 1, [⟨0x3F000000#32, 0x3F000000#32, 0x3F000000#32⟩]⟩))) = true := by decide +kernel
theorem test_placed_literal_128_runs :
    nextIs (step (State.reset.withFetchWord 8 0x80))
      (fun t => decide (stageOf t = some (.scanlines
        ⟨32767, 1, 129, 0, .planes .r ⟨List.replicate 128 0#8, [], [], []⟩, []⟩))) = true := by decide +kernel

/-! ### One step of an instruction -/

/-- C1, C2. -/
theorem test_nop : nextIs (exec (.nop 0xFFFFFF#24) idle) (fun t => decide (t = idle)) = true := by decide
/-- L3 P2, after the write to CMD: BUSY, and the input is captured. -/
theorem test_run_issue :
    nextIs (exec (.run 0#24) (loaded (res11 ++ [0x80#8, 0x80#8, 0x80#8, 0x80#8])))
      (fun t => decide (t.status = 1#32 ∧
        t.job = some (.run (res11 ++ [0x80#8, 0x80#8, 0x80#8, 0x80#8]) .header))) = true := by decide
/-- L3 P2, after the completion. -/
theorem test_run_completion :
    nextIs (complete (running (res11 ++ [0x80#8, 0x80#8, 0x80#8, 0x80#8]) .header))
      (fun t => decide (t.status = 2#32 ∧ t.width = 1#16 ∧ t.height = 1#16 ∧ t.outLen = 22#32 ∧
        t.outMem.map Prod.snd = [0#8, 0#8, 2#8, 0#8, 0#8, 0#8, 0#8, 0#8, 0#8, 0#8, 0#8, 0#8, 1#8, 0#8, 1#8, 0#8,
          0x20#8, 0x28#8, 0xF6#8, 0xF6#8, 0xF6#8, 0x16#8])) = true := by decide +kernel
/-- L1-8, after the completion. -/
theorem test_run_fails_on_bogus :
    nextIs (complete (running [0x0A#8, 0x62#8, 0x6F#8, 0x67#8, 0x75#8, 0x73#8, 0x0A#8] .header))
      (fun t => decide (t.status = 4#32 ∧ t.errinfo = 0x311#32 ∧ t.errpos = 1#32 ∧ t.width = 0#16 ∧
        t.outLen = 0#32)) = true := by decide
/-- L2-S5: the literal of 5 after a run of 4 overruns at its count byte. -/
theorem test_run_overrun :
    nextIs (complete (running (res18 ++ [2#8, 2#8, 0#8, 8#8, 0x84#8, 0x80#8, 5#8, 1#8, 2#8, 3#8, 4#8, 5#8])
        .header))
      (fun t => decide (t.status = 4#32 ∧ t.errinfo = 0x312#32 ∧ t.errpos = 17#32 ∧ t.width = 8#16)) = true := by
  decide
theorem test_encode_pixel_issue :
    nextIs (exec (.encodePixel 0#24) { idle with pixR := 1#32, pixG := 2#32, pixB := 3#32 })
      (fun t => decide (t.job = some (.encode 1#32 2#32 3#32))) = true := by decide
/-- L3 P1, after the completion. -/
theorem test_encode_pixel_completion :
    nextIs (complete (encoding 0x3F800000#32 0x40000000#32 0x40400000#32))
      (fun t => decide (t.status = 2#32 ∧ t.pixOut = 0x80FEA955#32)) = true := by decide +kernel
/-- E11: a NaN and a negative value become +0. -/
theorem test_encode_nan :
    rgbmEncode .away 0x7FC00000#32 0x3F800000#32 0xBF800000#32 = ⟨0#8, 252#8, 0#8, 43#8⟩ := by decide +kernel
/-- E17, E18: a subnormal, and the largest decodable value. -/
theorem test_encode_ends :
    rgbmEncode .away 0x00004000#32 0#32 0#32 = ⟨0#8, 0#8, 0#8, 1#8⟩ ∧
    rgbmEncode .away 0x7EFF0000#32 0#32 0#32 = ⟨255#8, 0#8, 0#8, 255#8⟩ := by decide +kernel
/-- X8, X9, X11, X13. -/
theorem test_expand :
    expand ⟨1#8, 0#8, 0#8, 1#8⟩ = ⟨0x00004000#32, 0#32, 0#32⟩ ∧
    expand ⟨255#8, 0#8, 0#8, 1#8⟩ = ⟨0x003FC000#32, 0#32, 0#32⟩ ∧
    expand ⟨255#8, 0#8, 0#8, 255#8⟩ = ⟨0x7EFF0000#32, 0#32, 0#32⟩ ∧
    expand ⟨200#8, 100#8, 50#8, 129#8⟩ = ⟨0x3FC80000#32, 0x3F480000#32, 0x3EC80000#32⟩ := by decide +kernel
/-- C13: CLEAR keeps PIX_OUT. -/
theorem test_clear :
    nextIs (exec (.clear 0#24) { idle with done := true, viol := true, pixOut := 0x01000000#32 })
      (fun t => decide (t.status = 0#32 ∧ t.pixOut = 0x01000000#32)) = true := by decide
/-- C18. -/
theorem test_clear_while_busy :
    nextIs (exec (.clear 0#24) (encoding 0#32 0#32 0#32))
      (fun t => decide (t = { encoding 0#32 0#32 0#32 with viol := true })) = true := by decide
theorem test_reserved_04_07 :
    nextIs (exec (.reserved0407 0#2 0#24) idle) (fun t => decide (t = { idle with viol := true })) = true := by decide
theorem test_reserved_08_0F :
    nextIs (exec (.reserved080F 0#3 0#24) idle) (fun t => decide (t = { idle with viol := true })) = true := by decide
theorem test_reserved_10_1F :
    nextIs (exec (.reserved101F 0#4 0#24) idle) (fun t => decide (t = { idle with viol := true })) = true := by decide
theorem test_reserved_20_3F :
    nextIs (exec (.reserved203F 0#5 0#24) idle) (fun t => decide (t = { idle with viol := true })) = true := by decide
theorem test_reserved_40_7F :
    nextIs (exec (.reserved407F 0#6 0#24) idle) (fun t => decide (t = { idle with viol := true })) = true := by decide
/-- C4. -/
theorem test_reserved_80_FF :
    nextIs (exec (.reserved80FF 1#7 0#24) idle) (fun t => decide (t = { idle with viol := true })) = true := by decide
/-- L2-S8: the marker declares 9 in an image 8 wide. -/
theorem test_marker_of_another_width :
    nextIs (exec (.scanlineMarker 0#7 9#8) (reading (res18 ++ [2#8, 2#8, 0#8, 9#8]) 8 1 11 0 .start []))
      (fun t => decide (stageOf t = some (.failed (some (8, 1)) ⟨.markerWidth, 11⟩))) = true := by decide
/-- L2-S1: the first packet fills plane R. -/
theorem test_run_packet_ends_its_plane :
    nextIs (exec (.rleRun 8#7 0x80#8) (reading (res18 ++ [2#8, 2#8, 0#8, 8#8, 0x88#8, 0x80#8]) 8 1 15 0
        (.planes .r ⟨[], [], [], []⟩) []))
      (fun t => decide (stageOf t = some (.scanlines
        ⟨8, 1, 17, 0, .planes .g ⟨List.replicate 8 0x80#8, [], [], []⟩, []⟩))) = true := by decide
/-- L2-S3: a literal of no bytes takes one byte. -/
theorem test_empty_literal :
    nextIs (exec (.rleLiteral []) (reading (res18 ++ [2#8, 2#8, 0#8, 8#8, 0#8]) 8 1 15 0
        (.planes .r ⟨[], [], [], []⟩) []))
      (fun t => decide (stageOf t = some (.scanlines
        ⟨8, 1, 16, 0, .planes .r ⟨[], [], [], []⟩, []⟩))) = true := by decide
/-- L2-S18. -/
theorem test_literal_128_overruns :
    nextIs (exec (.rleLiteral128 (List.replicate 128 0#8)) (reading (res18 ++ [2#8, 2#8, 0#8, 8#8, 0x80#8])
        8 1 15 0 (.planes .r ⟨[], [], [], []⟩) []))
      (fun t => decide (stageOf t = some (.failed (some (8, 1)) ⟨.rleOverrun, 15⟩))) = true := by decide +kernel
theorem test_flat_pixel_joins :
    nextIs (exec (.flatPixel 1#8 2#8 3#8 4#8) (reading (res11 ++ [1#8, 2#8, 3#8, 4#8]) 2 1 11 0 .start []))
      (fun t => decide (stageOf t = some (.scanlines
        ⟨2, 1, 15, 0, .flat [⟨1#8, 2#8, 3#8, 4#8⟩], []⟩))) = true := by decide
/-- A token where no sequencer waits for it is the model's own fault (log 10). -/
theorem test_token_out_of_context : exec (.rleRun 1#7 0#8) idle = .fault .tokenOutOfContext := rfl

/-! ### The host -/

/-- C6. -/
theorem test_in_len_clamps :
    nextIs (step { idle with script := [.host (.regWrite 0x10 4 0xFFFFFFFF#32)] })
      (fun t => decide (t.inLen = 64#32)) = true := by decide
/-- C10. -/
theorem test_cap_dim : capDimWord { small with maxW := 1024, maxH := 768 } = 0x03000400#32 := by decide
/-- 20_memory.md rule R62. -/
theorem test_register_access_outside :
    step { idle with script := [.host (.regRead 0x40 4)] } = .refused (.registerAccess 0x40 4) := rfl
/-- C20. -/
theorem test_reset_while_busy :
    nextIs (step { encoding 1#32 2#32 3#32 with script := [.reset] })
      (fun t => decide (t.status = 0#32 ∧ t.pixR = 0#32)) = true := by decide
/-- L3 P5: both orders of the second command word and the completion. -/
theorem test_second_command_in_either_order :
    nextIs (Host.Core.run Sys2Proof.core 2
      { encoding 0#32 0#32 0#32 with script := [.host (.regWrite 0 4 2#32), .complete] })
      (fun t => decide (t.status = 0xA#32)) = true ∧
    nextIs (Host.Core.run Sys2Proof.core 3
      { encoding 0#32 0#32 0#32 with script := [.complete, .host (.regWrite 0 4 2#32)] })
      (fun t => decide (t.status = 2#32)) = true := by decide +kernel

/-! ### Witnesses: states and operands that meet a statement's hypotheses, at the ends of their ranges -/

/-- The least legal instance. -/
def least : Params :=
  { maxW := 1, maxH := 1, inCap := 1, outCap := 18, strideAlign := 4, workers := 1, tie := .even,
    baseReg := 0, baseIn := 0, baseOut := 0 }

theorem witness_ResetLeavesTheTableOfRuleR44 : least.Legal ∧ Reg.pixOut ≠ .capDim ∧ Reg.pixOut ≠ .capIn ∧
    Reg.pixOut ≠ .capOut := by decide

theorem witness_ResetStepRestoresEveryResetValue :
    { encoding 1#32 2#32 3#32 with script := [.reset, .tick] }.script = .reset :: [.tick] := rfl

theorem witness_InvariantHoldsAtReset : least.Legal ∧ Params.standard.Legal := by decide

/-- A RUN in flight between two packets, whose block moves next. -/
def betweenPackets : State :=
  { reading (res18 ++ [2#8, 2#8, 0#8, 8#8, 0x88#8, 0x80#8, 0x81#8, 7#8]) 8 1 17 0
      (.planes .g ⟨List.replicate 8 0x80#8, [], [], []⟩) [] with script := [.tick] }

theorem witness_EveryStepKeepsTheInvariant :
    betweenPackets.Inv ∧ ∃ t, step betweenPackets = .next t := ⟨by decide, _, rfl⟩

theorem witness_EveryStepKeepsTheMemoriesInForm :
    Memory.wf (loaded [1#8, 2#8]).inMem = true ∧ Memory.wf (loaded [1#8, 2#8]).outMem = true ∧
    ∃ t, step { loaded [1#8, 2#8] with script := [.host (.inWrite 1 1 3#8)] } = .next t :=
  ⟨by decide, by decide, _, rfl⟩

/-- Each access just outside and just inside the interface. -/
theorem witness_OnlyAccessesOutsideTheInterfaceAreRefused :
    (HostAccess.regRead 0x40 4).inside small = false ∧ (HostAccess.regRead 0x3C 4).inside small = true ∧
    (HostAccess.regWrite 2 4 0#32).inside small = false ∧ (HostAccess.regRead 0 1).inside small = false ∧
    (HostAccess.inRead 64 1).inside small = false ∧ (HostAccess.inRead 63 1).inside small = true ∧
    (HostAccess.inWrite 0 4 0#8).inside small = false ∧ (HostAccess.outRead 4096 1).inside small = false ∧
    (HostAccess.outRead 4095 1).inside small = true ∧ (HostAccess.outWrite 0 1 0#8).inside small = false ∧
    { idle with script := [.host (.regRead 0x40 4)] }.script = .host (.regRead 0x40 4) :: [] := by decide

theorem witness_StepRunsTheDecodedCommand :
    { idle with script := [.host (.regWrite 0 4 0x81#32)] }.script = .host (.regWrite 0 4 0x81#32) :: [] := rfl

/-- A packet is read; a marker is looked for; a flat scanline goes on. Then the input is cut short: three bytes at
a scanline's start and in a flat one, no count byte, and a run and a literal without their bytes that fill the
plane exactly and by one too many. -/
theorem witness_StepRunsTheDecodedToken :
    (∃ inb q, betweenPackets.script = .tick :: [] ∧ betweenPackets.Reading inb q ∧
      (∃ k buf, q.phase = .planes k buf) ∧ decode (q.source inb) = .ok (.rleRun 1#7 7#8)) ∧
    (∃ q, (reading res18 8 1 8 0 .start []).Reading res18 q ∧ q.phase = .start ∧ res18.length < q.p + 4 ∧
      decode (q.source res18) = .error .shortPixel) ∧
    (∃ q row, (reading res18 2 1 8 0 (.flat [gray]) []).Reading res18 q ∧ q.phase = .flat row ∧
      res18.length < q.p + 4 ∧ decode (q.source res18) = .error .shortPixel) ∧
    (∃ q, (reading res18 8 1 11 0 (.planes .r PlaneBuf.empty) []).Reading res18 q ∧ res18.length ≤ q.p ∧
      decode (q.source res18) = .error .noCountByte) ∧
    (∃ q buf, (reading (res18 ++ [0x88#8]) 8 1 11 0 (.planes .r ⟨[], [], [], []⟩) []).Reading
        (res18 ++ [0x88#8]) q ∧ q.phase = .planes .r buf ∧
      decode (q.source (res18 ++ [0x88#8])) = .error (.shortRun 8) ∧ (buf.get .r).length + 8 ≤ q.w) ∧
    (∃ q buf, (reading (res18 ++ [0x88#8]) 8 1 11 0 (.planes .r ⟨[1#8], [], [], []⟩) []).Reading
        (res18 ++ [0x88#8]) q ∧ q.phase = .planes .r buf ∧
      decode (q.source (res18 ++ [0x88#8])) = .error (.shortRun 8) ∧ q.w < (buf.get .r).length + 8) ∧
    (∃ q buf, (reading (res18 ++ [8#8, 1#8]) 8 1 11 0 (.planes .r ⟨[], [], [], []⟩) []).Reading
        (res18 ++ [8#8, 1#8]) q ∧ q.phase = .planes .r buf ∧
      decode (q.source (res18 ++ [8#8, 1#8])) = .error (.shortLiteral 8) ∧ (buf.get .r).length + 8 ≤ q.w) ∧
    (∃ q buf, (reading (res18 ++ [8#8, 1#8]) 8 1 11 0 (.planes .r ⟨[1#8], [], [], []⟩) []).Reading
        (res18 ++ [8#8, 1#8]) q ∧ q.phase = .planes .r buf ∧
      decode (q.source (res18 ++ [8#8, 1#8])) = .error (.shortLiteral 8) ∧ q.w < (buf.get .r).length + 8) :=
  ⟨⟨_, _, rfl, rfl, ⟨_, _, rfl⟩, rfl⟩, ⟨_, rfl, rfl, by decide, rfl⟩, ⟨_, _, rfl, rfl, by decide, rfl⟩,
    ⟨_, rfl, by decide, rfl⟩, ⟨_, _, rfl, rfl, rfl, by decide⟩, ⟨_, _, rfl, rfl, rfl, by decide⟩,
    ⟨_, _, rfl, rfl, rfl, by decide⟩, ⟨_, _, rfl, rfl, rfl, by decide⟩⟩

theorem witness_EveryBlockIsIdleAfterItsScriptAndOneStep :
    ∀ e ∈ { encoding 1#32 2#32 3#32 with
        script := [.tick, .host (.regRead 0x3C 4), .host (.outRead 4095 1), .complete, .reset] }.script,
      e.inside small = true := by decide

theorem witness_CommandWordsDecodeByTheirLowByte :
    (0xFFFFFF00#32).toNat % 256 = 0x00 ∧ (0x101#32).toNat % 256 = 0x01 ∧ (2#32).toNat % 256 = 0x02 ∧
    (3#32).toNat % 256 = 0x03 ∧ (4#32).toNat % 256 = 0x04 ∧ (7#32).toNat % 256 = 0x07 ∧
    (8#32).toNat % 256 = 0x08 ∧ (0x0F#32).toNat % 256 = 0x0F ∧ (0x10#32).toNat % 256 = 0x10 ∧
    (0x1F#32).toNat % 256 = 0x1F ∧ (0x20#32).toNat % 256 = 0x20 ∧ (0x3F#32).toNat % 256 = 0x3F ∧
    (0x40#32).toNat % 256 = 0x40 ∧ (0x7F#32).toNat % 256 = 0x7F ∧ (0x80#32).toNat % 256 = 0x80 ∧
    (0xFF#32).toNat % 256 = 0xFF := by decide

theorem witness_CommandDecodeAndEncodeAgree : Instr.isCommand (.reserved80FF 0x7F#7 0xFFFFFF#24) = true := rfl

/-- Each token at the ends of its counts, and a flat pixel on each side of the marker's pattern. -/
theorem witness_TokenDecodeAndEncodeAgree :
    Instr.wf (.scanlineMarker 0x7F#7 0xFF#8) = true ∧ Instr.wf (.rleRun 1#7 0#8) = true ∧
    Instr.wf (.rleRun 127#7 0#8) = true ∧ Instr.wf (.rleLiteral []) = true ∧
    Instr.wf (.rleLiteral (List.replicate 127 0#8)) = true ∧
    Instr.wf (.rleLiteral128 (List.replicate 128 0#8)) = true ∧
    Instr.wf (.flatPixel 2#8 2#8 0x80#8 8#8) = true ∧ Instr.isCommand (.flatPixel 2#8 2#8 0x80#8 8#8) = false ∧
    ¬((2#8 : Byte) = 2#8 ∧ (2#8 : Byte) = 2#8 ∧ (0x80#8 : Byte).toNat < 128) ∧
    ¬¬((2#8 : Byte) = 2#8 ∧ (2#8 : Byte) = 2#8 ∧ (0x7F#8 : Byte).toNat < 128) := by decide +kernel

/-- Count bytes 0, 1, 128, 129 and 255, whole and cut short. -/
theorem witness_PacketsAreReadByTheirCountByte :
    128 < (129#8 : Byte).toNat ∧ (128#8 : Byte).toNat ≤ 128 ∧ (List.replicate 127 0#8).length < (128#8 : Byte).toNat ∧
    ([] : List Byte).length < (1#8 : Byte).toNat ∧
    (if 128 < (0#8 : Byte).toNat then 2 else 1 + (0#8 : Byte).toNat) ≤ 1 + ([] : List Byte).length ∧
    (if 128 < (128#8 : Byte).toNat then 2 else 1 + (128#8 : Byte).toNat) ≤ 1 + (List.replicate 128 0#8).length ∧
    (if 128 < (255#8 : Byte).toNat then 2 else 1 + (255#8 : Byte).toNat) ≤ 1 + [0#8].length := by decide +kernel

theorem witness_NopChangesNothing : (loaded res11).execState = .idle := rfl
theorem witness_RunIssueCapturesItsInputAndClearsItsResults : (loaded res11).execState = .idle := rfl
theorem witness_EncodePixelIssueCapturesTheThreeWords : { idle with pixR := 1#32 }.execState = .idle := rfl
theorem witness_ClearAcknowledgesAndKeepsResults : { idle with err := true, viol := true }.execState = .idle := rfl
theorem witness_ReservedOpcodesOnlySetViol : { idle with viol := false }.execState = .idle := rfl

theorem witness_CommandsWhileBusyAreDropped :
    Instr.isCommand (.run 0#24) = true ∧ Instr.isCommand (.reserved0407 0#2 0#24) = true ∧
    (encoding 1#32 2#32 3#32).execState = .busy := ⟨rfl, rfl, rfl⟩

theorem witness_CommandFrame :
    (∃ t, Instr.isCommand (.clear 0#24) = true ∧ exec (.clear 0#24) idle = .next t ∧
      ∀ g, Instr.clear 0#24 ≠ .run g) ∧
    ∃ t, Instr.isCommand (.run 0#24) = true ∧ exec (.run 0#24) idle = .next t :=
  ⟨⟨_, rfl, rfl, nofun⟩, _, rfl, rfl⟩

theorem witness_EncodePixelCompletionPublishesTheBytes :
    (encoding 1#32 2#32 3#32).job = some (.encode 1#32 2#32 3#32) := rfl

theorem witness_FailingRunEntersTheFailureState :
    (running [] (.failed none ⟨.noBlankLine, 0⟩)).job = some (.run [] (.failed none ⟨.noBlankLine, 0⟩)) ∧
    (running res18 (.failed (some (8, 1)) ⟨.outCapacity, 0⟩)).job =
      some (.run res18 (.failed (some (8, 1)) ⟨.outCapacity, 0⟩)) := ⟨rfl, rfl⟩

theorem witness_SuccessfulRunPublishesItsFile :
    (running res11 (.written 1 1 (tgaHeader 1 1 ++ [1#8, 2#8, 3#8, 4#8]))).job =
      some (.run res11 (.written 1 1 (tgaHeader 1 1 ++ [1#8, 2#8, 3#8, 4#8]))) := rfl

/-- An input without a blank line, one that begins with it, and one whose blank line comes second. -/
theorem witness_HeaderEndsAtTheFirstBlankLine :
    (∀ t, ¬BlankLineEndsAt [] t) ∧ BlankLineEndsAt res11 1 ∧ (∀ u, u < 1 → ¬BlankLineEndsAt res11 u) ∧
    BlankLineEndsAt [0x41#8, 0x0A#8, 0x0A#8] 3 ∧
    (∀ u, u < 3 → ¬BlankLineEndsAt [0x41#8, 0x0A#8, 0x0A#8] u) := by
  refine ⟨?_, by decide, by decide, by decide, by decide⟩
  rintro t ⟨-, h, -⟩
  simp at h

/-- `-Y 1 +X 8`; numbers for each outcome: accepted, a zero, and on each side of the bound; two letters alike, and
another orientation; the least and the greatest digit. -/
theorem witness_ResolutionLinesAreCheckedInOrder :
    lineFeed ∉ res18.drop 11 ∧ IsNumber [0x38#8] ∧ IsNumber [0x30#8] ∧ IsNumber [0x36#8, 0x35#8] ∧
    res18.drop 1 = resolutionLine ⟨.minus, .y⟩ [0x31#8] ⟨.plus, .x⟩ [0x38#8] ++ lineFeed :: [] ∧
    decimal [0x36#8, 0x34#8] = small.maxW ∧ small.maxW < decimal [0x36#8, 0x35#8] ∧ decimal [0x30#8] = 0 ∧
    (⟨.plus, .y⟩ : Axis).letter = (⟨.minus, .y⟩ : Axis).letter ∧
    ¬((⟨.plus, .y⟩ : Axis) = ⟨.minus, .y⟩ ∧ (⟨.plus, .x⟩ : Axis) = ⟨.plus, .x⟩) ∧
    isDigit 0x30#8 = true ∧ isDigit 0x39#8 = true ∧ isDigit 0x2F#8 = false ∧ isDigit 0x3A#8 = false := by decide

theorem witness_OnlyLinesOfTheGrammarAreWellFormed :
    [0x0A#8, 0x62#8, 0x0A#8].drop 1 = [0x62#8] ++ lineFeed :: [] ∧ lineFeed ∉ [0x62#8] ∧
    ¬∃ (a1 a2 : Axis) (d1 d2 : List Byte), IsNumber d1 ∧ IsNumber d2 ∧ a1.letter ≠ a2.letter ∧
      [0x62#8] = resolutionLine a1 d1 a2 d2 := by
  refine ⟨rfl, by decide, ?_⟩
  rintro ⟨a1, a2, d1, d2, -, -, -, h⟩
  have := congrArg List.length h
  simp [resolutionLine, Axis.bytes] at this

/-- The widths 8 and 32767, and a marker on each side of its width. -/
theorem witness_MarkerOpensThePlanesOrFails :
    (reading (res18 ++ [2#8, 2#8, 0#8, 8#8]) 8 1 11 0 .start []).Reading (res18 ++ [2#8, 2#8, 0#8, 8#8])
      ⟨8, 1, 11, 0, .start, []⟩ ∧
    11 + 4 ≤ (res18 ++ [2#8, 2#8, 0#8, 8#8]).length ∧ (0#7).toNat * 256 + (8#8).toNat = 8 ∧
    (0x7F#7).toNat * 256 + (0xFF#8).toNat = 32767 ∧ (0#7).toNat * 256 + (9#8).toNat ≠ 8 := by decide

/-- One value short of the plane's end. -/
theorem witness_RunPacketFillsItsPlane :
    (reading (res18 ++ [0x86#8, 7#8]) 8 1 11 0 (.planes .r ⟨[1#8], [], [], []⟩) []).Reading
      (res18 ++ [0x86#8, 7#8]) ⟨8, 1, 11, 0, .planes .r ⟨[1#8], [], [], []⟩, []⟩ ∧
    [1#8].length + (6#7).toNat < 8 ∧ 11 + 2 ≤ (res18 ++ [0x86#8, 7#8]).length := by decide

/-- A literal of no bytes at the end of the input, and a longer one. -/
theorem witness_LiteralPacketFillsItsPlane :
    (reading (res18 ++ [0#8]) 8 1 11 0 (.planes .r ⟨[], [], [], []⟩) []).Reading
      (res18 ++ [0#8]) ⟨8, 1, 11, 0, .planes .r ⟨[], [], [], []⟩, []⟩ ∧
    (0 : Nat) + ([] : List Byte).length < 8 ∧ 11 + 1 + ([] : List Byte).length ≤ (res18 ++ [0#8]).length ∧
    (0 : Nat) + [1#8, 2#8, 3#8, 4#8, 5#8, 6#8, 7#8].length < 8 := by decide

/-- L2-S17: the input ends inside a packet that overruns; and one value less, which does not overrun. -/
theorem witness_PacketOverrunComesBeforeEndOfInput :
    (reading (res18 ++ [0x89#8]) 8 1 11 0 (.planes .r ⟨[], [], [], []⟩) []).Reading
      (res18 ++ [0x89#8]) ⟨8, 1, 11, 0, .planes .r ⟨[], [], [], []⟩, []⟩ ∧
    Instr.isPacket (.rleRun 9#7 0#8) = true ∧ 8 < 0 + (packetValues (.rleRun 9#7 0#8)).length ∧
    0 + (packetValues (.rleRun 8#7 0#8)).length ≤ 8 ∧
    (res18 ++ [0x88#8]).length < 11 + Instr.size (.rleRun 8#7 0#8) := by decide

/-- Plane R, which another follows; and plane E behind three full planes, in the last but one scanline and in the
last. -/
theorem witness_FullPlaneEndsAndPlaneEEndsTheScanline :
    (reading (res18 ++ [0x88#8, 7#8]) 8 1 11 0 (.planes .r ⟨[], [], [], []⟩) []).Reading
      (res18 ++ [0x88#8, 7#8]) ⟨8, 1, 11, 0, .planes .r ⟨[], [], [], []⟩, []⟩ ∧
    Instr.isPacket (.rleRun 8#7 7#8) = true ∧ 0 + (packetValues (.rleRun 8#7 7#8)).length = 8 ∧
    11 + Instr.size (.rleRun 8#7 7#8) ≤ (res18 ++ [0x88#8, 7#8]).length ∧ Plane.r.next = some .g ∧
    (reading (res18 ++ [0x81#8, 7#8]) 8 2 11 0 (.planes .e
        ⟨List.replicate 8 1#8, List.replicate 8 2#8, List.replicate 8 3#8, List.replicate 7 4#8⟩) []).Reading
      (res18 ++ [0x81#8, 7#8]) ⟨8, 2, 11, 0, .planes .e
        ⟨List.replicate 8 1#8, List.replicate 8 2#8, List.replicate 8 3#8, List.replicate 7 4#8⟩, []⟩ ∧
    (List.replicate 7 4#8).length + (packetValues (.rleRun 1#7 7#8)).length = 8 ∧ 0 + 1 < 2 ∧ 1 + 1 = 2 ∧
    (List.replicate 8 1#8 : List Byte).length = 8 ∧ (List.replicate 8 1#8 : List Byte)[7]? = some 1#8 ∧
    (List.replicate 8 2#8 : List Byte)[7]? = some 2#8 ∧ (List.replicate 8 3#8 : List Byte)[7]? = some 3#8 ∧
    (List.replicate 7 4#8 ++ packetValues (.rleRun 1#7 7#8))[7]? = some 7#8 := by decide

/-- A pixel cut short; one that leaves its scanline open; the last of a scanline, and the last of the image. -/
theorem witness_FlatPixelJoinsItsScanline :
    (reading (res11 ++ [1#8, 2#8, 3#8, 4#8]) 1 2 11 0 .start []).Reading (res11 ++ [1#8, 2#8, 3#8, 4#8])
      ⟨1, 2, 11, 0, .start, []⟩ ∧
    (res11 ++ [1#8, 2#8, 3#8]).length < 11 + 4 ∧ 11 + 4 ≤ (res11 ++ [1#8, 2#8, 3#8, 4#8]).length ∧
    ([] : List Rgbe).length + 1 < 2 ∧ ([] : List Rgbe).length + 1 = 1 ∧ 0 + 1 < 2 ∧ 1 + 1 = 2 ∧
    (reading (res11 ++ [1#8, 2#8, 3#8, 4#8]) 2 1 11 0 (.flat [gray]) []).Reading
      (res11 ++ [1#8, 2#8, 3#8, 4#8]) ⟨2, 1, 11, 0, .flat [gray], []⟩ ∧ [gray].length + 1 = 2 := by decide

theorem witness_TokenFrame :
    ∃ t, Instr.isCommand (.rleRun 1#7 7#8) = false ∧ exec (.rleRun 1#7 7#8) betweenPackets = .next t :=
  ⟨_, rfl, rfl⟩

/-- A RUN in flight, an ENCODE_PIXEL in flight, and none. -/
theorem witness_HiddenStepsShowNothing :
    (∃ t inb stage, tick betweenPackets = .next t ∧ betweenPackets.job = some (.run inb stage)) ∧
    (∃ t, tick (encoding 1#32 2#32 3#32) = .next t ∧
      (encoding 1#32 2#32 3#32).job = some (.encode 1#32 2#32 3#32)) ∧
    (∃ t, tick idle = .next t ∧ idle.job = none) :=
  ⟨⟨_, _, _, rfl, rfl⟩, ⟨_, rfl, rfl⟩, _, rfl, rfl⟩

theorem witness_HiddenStepsDoNotChangeTheCompletion : ∃ t, tick betweenPackets = .next t := ⟨_, rfl⟩
theorem witness_RunCompletesWithTheResultOfItsFunctions :
    (loaded res18).params.Legal ∧ (loaded res18).execState = .idle := by decide

/-- An empty input: the RUN fails, twice. -/
theorem witness_RunningTwiceGivesTheSameResult :
    ∃ t u v w, idle.params.Legal ∧ idle.execState = .idle ∧ exec (.run 0#24) idle = .next t ∧
      complete t = .next u ∧ exec (.run 1#24) u = .next v ∧ complete v = .next w :=
  ⟨_, _, _, _, by decide, rfl, rfl, rfl, rfl, rfl⟩

theorem witness_ExpansionIsExact : (1#8 : Byte) ≠ 0#8 ∧ (255#8 : Byte) ≠ 0#8 := by decide

/-- A NaN of either sign, the two infinities, −0, and the largest pattern that is taken as it is. -/
theorem witness_NanAndNegativeChannelsEncodeAsZero :
    (exponentField 0x7F800001#32 = 0xFF ∧ fractionField 0x7F800001#32 ≠ 0) ∧
    (exponentField 0xFFFFFFFF#32 = 0xFF ∧ fractionField 0xFFFFFFFF#32 ≠ 0) ∧
    (0x80000000#32).getLsbD 31 = true ∧ (0xFF800000#32).getLsbD 31 = true ∧
    ¬((exponentField 0x7F800000#32 = 0xFF ∧ fractionField 0x7F800000#32 ≠ 0) ∨
      (0x7F800000#32).getLsbD 31 = true) := by decide

theorem witness_ChannelsOfSixOrMoreSaturate :
    0x40C00000 ≤ (0x40C00000#32).toNat ∧ (0x7F800000#32).toNat ≤ 0x7F800000 := by decide

theorem witness_BlackEncodesWithTheLeastMultiplier :
    sanitize 0#32 = 0#32 ∧ sanitize 0x80000000#32 = 0#32 ∧ sanitize 0x7FC00000#32 = 0#32 := by decide

theorem witness_RoundTripErrorIsAtMostSixOver255 :
    InZeroToSix 0#32 ∧ InZeroToSix 0x3F800000#32 ∧ InZeroToSix 0x40C00000#32 ∧ InZeroToSix 0x80000000#32 := by decide

theorem witness_TieRuleMattersOnlyAtAnExactHalf : (one / 2 + 1) % one ≠ one / 2 ∧ 0 % one ≠ one / 2 := by
  decide +kernel

theorem witness_TgaHeaderHasTheTableOfRuleR92 : 65535 < 65536 ∧ 1 < 65536 := by decide

/-- A file that fills OUT exactly. -/
theorem witness_FileHoldsEachPixelAtItsPlace :
    { small with outCap := 26 }.Legal ∧ [black, black].length = 2 * 1 ∧ 18 + 4 * 2 * 1 ≤ 26 ∧ 1 < 2 ∧ 0 < 1 ∧
    [black, black][0 * 2 + 1]? = some black := by decide

theorem witness_FileTooLargeForOutFails :
    (running res11 (.packed ⟨1, 1, 4, [1#8, 2#8, 3#8, 4#8]⟩)).job =
      some (.run res11 (.packed ⟨1, 1, 4, [1#8, 2#8, 3#8, 4#8]⟩)) ∧
    21 < 18 + 4 * 1 * 1 ∧ 18 + 4 * 1 * 1 ≤ 22 := by decide

theorem witness_WorkersAndStrideAreUnobservable :
    small.Legal ∧ { small with strideAlign := 256, workers := 5 }.Legal ∧
    [black, black].length = 2 * 1 := by decide

theorem witness_RegisterReadsAnswerTheRegister :
    { idle with script := [.host (.regRead 0x3C 4)] }.script = .host (.regRead Reg.capOut.offset 4) :: [] ∧
    idle.execState = .idle ∧ idle.params.Legal ∧ (encoding 1#32 2#32 3#32).execState = .busy ∧
    Reg.capOut ∉ [Reg.errinfo, Reg.errpos, Reg.width, Reg.height, Reg.outLen, Reg.pixOut] := by decide

theorem witness_ResultReadsWhileBusyAreFree :
    { encoding 1#32 2#32 3#32 with script := [.host (.regRead 0x2C 4)] }.script =
      .host (.regRead Reg.pixOut.offset 4) :: [] ∧
    { encoding 1#32 2#32 3#32 with script := [.host (.regRead 0x2C 4)] }.execState = .busy ∧
    Reg.pixOut ∈ [Reg.errinfo, Reg.errpos, Reg.width, Reg.height, Reg.outLen, Reg.pixOut] := by decide

/-- IN_LEN below, at and above the capacity, and a register of each other kind. -/
theorem witness_RegisterWritesStoreOrAreIgnored :
    { idle with script := [.host (.regWrite 0x10 4 64#32)] }.script =
      .host (.regWrite Reg.inLen.offset 4 64#32) :: [] ∧ idle.execState = .idle ∧ small.inCap < 2 ^ 32 ∧
    { idle with script := [.host (.regWrite 0x30 4 1#32)] }.script =
      .host (.regWrite Reg.irqEn.offset 4 1#32) :: [] ∧
    Reg.capOut ∈ [Reg.status, Reg.errinfo, Reg.errpos, Reg.width, Reg.height, Reg.outLen, Reg.pixOut,
      Reg.capDim, Reg.capIn, Reg.capOut] := by decide

theorem witness_WritesWhileBusyAreDropped :
    { encoding 1#32 2#32 3#32 with script := [.host (.regWrite 0x20 4 9#32)] }.execState = .busy ∧
    { encoding 1#32 2#32 3#32 with script := [.host (.regWrite 0x20 4 9#32)] }.script =
      .host (.regWrite Reg.pixR.offset 4 9#32) :: [] ∧
    { encoding 1#32 2#32 3#32 with script := [.host (.inWrite 63 1 9#8)] }.script =
      .host (.inWrite 63 1 9#8) :: [] ∧ 63 < small.inCap := by decide

theorem witness_InMemoryKeepsTheLastByteWritten :
    { idle with script := [.host (.inWrite 63 1 9#8)] }.script = .host (.inWrite 63 1 9#8) :: [] ∧
    { idle with script := [.host (.inRead 0 1)] }.script = .host (.inRead 0 1) :: [] ∧ 63 < small.inCap ∧
    idle.execState = .idle := by decide

theorem witness_OutReadsAnswerTheFileOnlyWhenIdle :
    { idle with script := [.host (.outRead 4095 1)] }.script = .host (.outRead 4095 1) :: [] ∧
    4095 < small.outCap ∧ idle.execState = .idle ∧ (encoding 1#32 2#32 3#32).execState = .busy := by decide

theorem witness_InterruptRisesAtCompletionAndFallsAtAcknowledgement :
    (∃ t, (encoding 1#32 2#32 3#32).execState = .busy ∧ complete (encoding 1#32 2#32 3#32) = .next t) ∧
    (∃ t, idle.execState = .idle ∧ exec (.run 0#24) idle = .next t) ∧ { idle with err := true }.err = true :=
  ⟨⟨_, rfl, rfl⟩, ⟨_, rfl, rfl⟩, rfl⟩

end Sys2Proof.Tests
end

/-! ## The hidden steps of a RUN

What one hidden step can do, said once: `Seq.Reads` for the token at the cursor and `HiddenStep` for a stage.
The invariant, the completion and the frames are derived from these two relations. -/
namespace Sys2Proof.Machine

/-- What the token at the cursor can make of a sequencer over an input of length `L`
(41_rgbe_decoder.md rules R129 to R136). -/
inductive Seq.Reads (L : Nat) (q : Seq) : RunStage → Prop where
  | pixel (row : List Rgbe) (px : Rgbe) (h : (q.phase = .start ∧ row = []) ∨ q.phase = .flat row) :
      Seq.Reads L q (q.takePixel L row px)
  | marker (wm : Nat) (hp : q.phase = .start) (hw : Config.rleEligible q.w = true) :
      Seq.Reads L q (q.takeMarker L wm)
  | packet {k : Plane} {buf : PlaneBuf} (size : Nat) (values : List Byte) (hp : q.phase = .planes k buf)
      (hs : 1 ≤ size) : Seq.Reads L q (q.takePacket L k buf size values)
  | rejected (r : Reject) : Seq.Reads L q (q.raise (q.rejected L r))

/-- The stages a hidden step leads to, in the order of 20_memory.md rule R73. -/
inductive HiddenStep (p : Params) (seed : Nat) (inb : List Byte) : RunStage → RunStage → Prop where
  | header : HiddenStep p seed inb .header (headerStage p inb)
  | token {q : Seq} {stage : RunStage} (h : q.Reads inb.length stage) :
      HiddenStep p seed inb (.scanlines q) stage
  | pack (img : HdrImage) : HiddenStep p seed inb (.decoded img) (.packed (pixelApply p seed img))
  | write (pk : PackedImage) : HiddenStep p seed inb (.packed pk) (writeStage p pk)

/-- Any number of hidden steps (log 15). -/
inductive HiddenSteps (p : Params) (seed : Nat) (inb : List Byte) : RunStage → RunStage → Prop where
  | none (stage : RunStage) : HiddenSteps p seed inb stage stage
  | step {stage stage' last : RunStage} (h : HiddenStep p seed inb stage stage')
      (hs : HiddenSteps p seed inb stage' last) : HiddenSteps p seed inb stage last

/-- The stages that have no hidden step left and are ready to be published. -/
inductive RunStage.Settled : RunStage → Prop where
  | written (w h : Nat) (file : List Byte) : Settled (.written w h file)
  | failed (dims : Option (Nat × Nat)) (why : Failure) : Settled (.failed dims why)

/-! ### What the decoder answers at each place -/

theorem decodeFlat_cases {rest : List Byte} {i : Instr} (h : decodeFlat rest = .ok i) :
    ∃ r g b e, i = .flatPixel r g b e := by
  unfold decodeFlat at h
  split at h
  · exact ⟨_, _, _, _, (Except.ok.inj h).symm⟩
  · cases h

theorem decodeRowStart_cases {eligible : Bool} {rest : List Byte} {i : Instr}
    (h : decodeRowStart eligible rest = .ok i) :
    (eligible = true ∧ ∃ hi lo, i = .scanlineMarker hi lo) ∨ ∃ r g b e, i = .flatPixel r g b e := by
  unfold decodeRowStart at h
  split at h
  · split at h
    · next hmark => exact .inl ⟨hmark.1, _, _, (Except.ok.inj h).symm⟩
    · exact .inr ⟨_, _, _, _, (Except.ok.inj h).symm⟩
  · cases h

theorem decodePacket_cases {rest : List Byte} {i : Instr} (h : decodePacket rest = .ok i) :
    (∃ n v, i = .rleRun n v) ∨ (∃ bytes, i = .rleLiteral bytes) ∨ ∃ bytes, i = .rleLiteral128 bytes := by
  unfold decodePacket at h
  split at h
  · cases h
  · split at h
    · split at h
      · cases h
      · exact .inl ⟨_, _, (Except.ok.inj h).symm⟩
    · dsimp only at h
      split at h
      · cases h
      · split at h
        · exact .inr (.inr ⟨_, (Except.ok.inj h).symm⟩)
        · exact .inr (.inl ⟨_, (Except.ok.inj h).symm⟩)

/-! ### One hidden step -/

/-- A flat pixel read where a row is read changes the stage by `Seq.Reads`. -/
theorem exec_flatPixel_reads {s : State} {inb : List Byte} {q : Seq} (hj : s.Reading inb q)
    {row : List Rgbe} (hp : (q.phase = .start ∧ row = []) ∨ q.phase = .flat row) (r g b e : Byte) :
    ∃ stage, exec (.flatPixel r g b e) s = .next (s.setStage inb stage) ∧ q.Reads inb.length stage := by
  refine ⟨_, ?_, .pixel row ⟨r, g, b, e⟩ hp⟩
  obtain ⟨hp, rfl⟩ | hp := hp
  · rw [exec_flatPixel, State.inRow_of_start hj hp]
  · rw [exec_flatPixel, State.inRow_of_flat hj hp]

/-- A packet read inside a plane changes the stage by `Seq.Reads`. -/
theorem exec_packet_reads {s : State} {inb : List Byte} {q : Seq} (hj : s.Reading inb q) {k : Plane}
    {buf : PlaneBuf} (hp : q.phase = .planes k buf) {i : Instr}
    (hi : (∃ n v, i = .rleRun n v) ∨ (∃ bytes, i = .rleLiteral bytes) ∨ ∃ bytes, i = .rleLiteral128 bytes) :
    ∃ stage, exec i s = .next (s.setStage inb stage) ∧ q.Reads inb.length stage := by
  obtain ⟨n, v, rfl⟩ | ⟨bytes, rfl⟩ | ⟨bytes, rfl⟩ := hi
  · exact ⟨_, State.inPlane_of hj hp _, .packet _ _ hp (by decide)⟩
  · exact ⟨_, State.inPlane_of hj hp _, .packet _ _ hp (Nat.le_add_right _ _)⟩
  · exact ⟨_, State.inPlane_of hj hp _, .packet _ _ hp (Nat.le_add_right _ _)⟩

/-- The token that the bytes at the cursor decode to runs, and changes the stage by `Seq.Reads`: no token is
read out of its place (log 10). -/
theorem exec_decoded_reads {s : State} {inb : List Byte} {q : Seq} (hj : s.Reading inb q) {i : Instr}
    (hi : decode (q.source inb) = .ok i) :
    ∃ stage, exec i s = .next (s.setStage inb stage) ∧ q.Reads inb.length stage := by
  cases hp : q.phase with
  | start =>
    simp only [Seq.source, hp, decode] at hi
    obtain ⟨hw, h, l, rfl⟩ | ⟨r, g, b, e, rfl⟩ := decodeRowStart_cases hi
    · exact ⟨_, State.atRowStart_of hj hp hw _, .marker _ hp hw⟩
    · exact exec_flatPixel_reads hj (.inl ⟨hp, rfl⟩) r g b e
  | flat row =>
    simp only [Seq.source, hp, decode] at hi
    obtain ⟨r, g, b, e, rfl⟩ := decodeFlat_cases hi
    exact exec_flatPixel_reads hj (.inr hp) r g b e
  | planes k buf =>
    simp only [Seq.source, hp, decode] at hi
    exact exec_packet_reads hj hp (decodePacket_cases hi)

/-- All a hidden step of a RUN in flight can do: it is done, or it changes the stage by `HiddenStep`. -/
theorem tick_run {s : State} {inb : List Byte} {stage : RunStage} (hj : s.job = some (.run inb stage)) :
    (stage.Settled ∧ tick s = .next s) ∨
    ∃ stage', tick s = .next (s.setStage inb stage') ∧
      HiddenStep s.params s.outSeed inb stage stage' := by
  cases stage with
  | header => exact .inr ⟨_, by simp only [tick, hj], .header⟩
  | scanlines q =>
    cases hd : decode (q.source inb) with
    | ok i =>
      obtain ⟨stage', he, hr⟩ := exec_decoded_reads hj hd
      exact .inr ⟨stage', by simp only [tick, hj, hd, he], .token hr⟩
    | error r => exact .inr ⟨_, by simp only [tick, hj, hd], .token (.rejected r)⟩
  | decoded img => exact .inr ⟨_, by simp only [tick, hj], .pack img⟩
  | packed pk => exact .inr ⟨_, by simp only [tick, hj], .write pk⟩
  | written w h file => exact .inl ⟨.written w h file, by simp only [tick, hj]⟩
  | failed dims why => exact .inl ⟨.failed dims why, by simp only [tick, hj]⟩

/-- An ENCODE_PIXEL has no hidden step. -/
theorem tick_encode {s : State} {cr cg cb : Word} (hj : s.job = some (.encode cr cg cb)) :
    tick s = .next s := by
  simp only [tick, hj]

/-- An idle block has no hidden step. -/
theorem tick_idle {s : State} (hj : s.job = none) : tick s = .next s := by
  simp only [tick, hj]

/-- All a hidden step of any block can do: nothing, or another stage of the RUN in flight. -/
theorem tick_cases (s : State) :
    (tick s = .next s) ∨
    ∃ inb stage stage', s.job = some (.run inb stage) ∧ tick s = .next (s.setStage inb stage') ∧
      HiddenStep s.params s.outSeed inb stage stage' := by
  rcases hj : s.job with _ | (⟨cr, cg, cb⟩ | ⟨inb, stage⟩)
  · exact .inl (tick_idle hj)
  · exact .inl (tick_encode hj)
  · obtain ⟨-, h⟩ | ⟨stage', h, hs⟩ := tick_run hj
    · exact .inl h
    · exact .inr ⟨inb, stage, stage', rfl, h, hs⟩

/-! ### The hidden steps end

`rank` is a bound on the hidden steps left: a token reads at least one byte (rule R141), and behind the tokens
stand the pixel pipeline and the writer (log 11). -/

/-- A bound on the hidden steps a RUN over an input of length `L` has left. -/
def RunStage.rank (L : Nat) : RunStage → Nat
  | .header => L + 4
  | .scanlines q => L - q.p + 3
  | .decoded _ => 2
  | .packed _ => 1
  | .written _ _ _ => 0
  | .failed _ _ => 0

theorem RunStage.rank_le (L : Nat) (stage : RunStage) : stage.rank L ≤ L + 4 := by
  cases stage <;> simp only [RunStage.rank] <;> omega

@[simp] theorem Seq.rank_raise (L : Nat) (q : Seq) (why : Failure) : (q.raise why).rank L = 0 := rfl

theorem Seq.rank_finishRow_le (L : Nat) (q : Seq) (row : List Rgbe) :
    (q.finishRow row).rank L ≤ L - q.p + 3 := by
  unfold Seq.finishRow
  split <;> simp only [RunStage.rank] <;> omega

theorem Seq.rank_fillPlane_le (L : Nat) (q : Seq) (k : Plane) (buf : PlaneBuf) (values : List Byte) :
    (q.fillPlane k buf values).rank L ≤ L - q.p + 3 := by
  simp only [Seq.fillPlane]
  split
  · exact Nat.le_refl _
  · split
    · exact Nat.le_refl _
    · exact Seq.rank_finishRow_le L q _

/-- All a packet can do: the overrun, the end of the input, or the fill of its plane (rule R195). -/
theorem Seq.takePacket_cases {q : Seq} {k : Plane} {buf : PlaneBuf} (hp : q.phase = .planes k buf)
    (L size : Nat) (values : List Byte) :
    q.takePacket L k buf size values = q.raise ⟨.rleOverrun, q.p⟩ ∨
    q.takePacket L k buf size values = q.raise ⟨.eofRle, L⟩ ∨
    ((buf.get k).length + values.length ≤ q.w ∧ q.p + size ≤ L ∧
      q.takePacket L k buf size values = Seq.fillPlane { q with p := q.p + size } k buf values) := by
  rcases Nat.lt_or_ge q.w ((buf.get k).length + values.length) with hw | hw
  · exact .inl (Seq.takePacket_overrun L size hp hw)
  · rcases Nat.lt_or_ge L (q.p + size) with hl | hl
    · exact .inr (.inl (Seq.takePacket_short hp hw hl))
    · exact .inr (.inr ⟨hw, hl, Seq.takePacket_fits hp hw hl⟩)

/-- A token reads at least one byte or ends in a failed stage (rule R141). -/
theorem Seq.Reads.rank_lt {L : Nat} {q : Seq} {stage : RunStage} (h : q.Reads L stage) :
    stage.rank L < L - q.p + 3 := by
  cases h with
  | pixel row px hp =>
    unfold Seq.takePixel
    split
    · simp
    · split
      · simp only [RunStage.rank]; omega
      · have := Seq.rank_finishRow_le L { q with p := q.p + 4 } (row ++ [px])
        dsimp only at this
        omega
  | marker wm hp hw =>
    unfold Seq.takeMarker
    split
    · simp
    · split
      · simp
      · simp only [RunStage.rank]; omega
  | @packet k buf size values hp hs =>
    obtain he | he | ⟨-, hl, he⟩ := Seq.takePacket_cases hp L size values
    · simp [he]
    · simp [he]
    · have := Seq.rank_fillPlane_le L { q with p := q.p + size } k buf values
      rw [he]
      dsimp only at this
      omega
  | rejected r => simp

theorem HiddenStep.rank_lt {p : Params} {seed : Nat} {inb : List Byte} {stage stage' : RunStage}
    (h : HiddenStep p seed inb stage stage') : stage'.rank inb.length < stage.rank inb.length := by
  cases h with
  | header => unfold headerStage; split <;> simp only [RunStage.rank] <;> omega
  | token hr => exact hr.rank_lt
  | pack img => exact Nat.lt_succ_self 1
  | write pk => unfold writeStage; split <;> exact Nat.zero_lt_one

/-! ### What the hidden steps before a completion come to -/

@[simp] theorem State.setStage_setStage (s : State) (inb inb' : List Byte) (stage stage' : RunStage) :
    (s.setStage inb stage).setStage inb' stage' = s.setStage inb' stage' := rfl

theorem State.setStage_self {s : State} {inb : List Byte} {stage : RunStage}
    (hj : s.job = some (.run inb stage)) : s.setStage inb stage = s := by
  simp only [State.setStage, ← hj]

theorem settle_succ_of_tick {s t : State} (h : tick s = .next t) (fuel : Nat) :
    settle (fuel + 1) s = settle fuel t := by
  simp only [settle, h]

theorem settle_of_tick_self {s : State} (h : tick s = .next s) (fuel : Nat) :
    settle fuel s = .next s := by
  induction fuel with
  | zero => rfl
  | succ fuel ih => rw [settle_succ_of_tick h, ih]

/-- With as much fuel as its rank, a RUN settles, by hidden steps only (log 11). -/
theorem settle_run {s : State} {inb : List Byte} {stage : RunStage} {fuel : Nat}
    (hj : s.job = some (.run inb stage)) (hf : stage.rank inb.length ≤ fuel) :
    ∃ stage', settle fuel s = .next (s.setStage inb stage') ∧ stage'.Settled ∧
      HiddenSteps s.params s.outSeed inb stage stage' := by
  induction fuel generalizing s stage with
  | zero =>
    obtain ⟨hs, -⟩ | ⟨stage', -, hstep⟩ := tick_run hj
    · exact ⟨stage, by rw [settle, State.setStage_self hj], hs, .none stage⟩
    · exact absurd hstep.rank_lt (by omega)
  | succ fuel ih =>
    obtain ⟨hs, ht⟩ | ⟨stage', ht, hstep⟩ := tick_run hj
    · exact ⟨stage, by rw [settle_of_tick_self ht, State.setStage_self hj], hs, .none stage⟩
    · have hlt := hstep.rank_lt
      obtain ⟨last, hl, hs, hsteps⟩ := ih (State.setStage_job s inb stage') (by omega)
      exact ⟨last, by rw [settle_succ_of_tick ht, hl, State.setStage_setStage], hs, .step hstep hsteps⟩

/-- Fuel above the rank of a RUN changes nothing. -/
theorem settle_succ_eq {s : State} {inb : List Byte} {stage : RunStage} {fuel : Nat}
    (hj : s.job = some (.run inb stage)) (hf : stage.rank inb.length ≤ fuel) :
    settle (fuel + 1) s = settle fuel s := by
  induction fuel generalizing s stage with
  | zero =>
    obtain ⟨-, ht⟩ | ⟨stage', -, hstep⟩ := tick_run hj
    · rw [settle_succ_of_tick ht]
    · exact absurd hstep.rank_lt (by omega)
  | succ fuel ih =>
    obtain ⟨-, ht⟩ | ⟨stage', ht, hstep⟩ := tick_run hj
    · rw [settle_of_tick_self ht, settle_of_tick_self ht]
    · have hlt := hstep.rank_lt
      rw [settle_succ_of_tick ht, settle_succ_of_tick ht, ih (State.setStage_job s inb stage') (by omega)]

theorem complete_idle {s : State} (hj : s.job = none) : complete s = .next s := by
  simp only [complete, hj]

theorem complete_encode {s : State} {cr cg cb : Word} (hj : s.job = some (.encode cr cg cb)) :
    complete s = .next (s.publishPixel (rgbmEncode s.params.tie cr cg cb)) := by
  simp only [complete, hj]

/-- The completion of a RUN publishes the state its hidden steps settle in. -/
theorem complete_run_of_settle {s t : State} {inb : List Byte} {stage : RunStage}
    (hj : s.job = some (.run inb stage)) (h : settle (settleBound inb) s = .next t) :
    complete s = publish t := by
  simp only [complete, hj, h]

/-- All the completion of a RUN can do: hidden steps lead to a file or to an error, which is published. -/
theorem complete_run {s : State} {inb : List Byte} {stage : RunStage}
    (hj : s.job = some (.run inb stage)) :
    (∃ w h file, HiddenSteps s.params s.outSeed inb stage (.written w h file) ∧
      complete s = .next (s.publishFile w h file)) ∨
    ∃ dims why, HiddenSteps s.params s.outSeed inb stage (.failed dims why) ∧
      complete s = .next (s.fail dims why) := by
  obtain ⟨last, hl, hs, hsteps⟩ := settle_run hj (RunStage.rank_le inb.length stage)
  have hc := complete_run_of_settle hj hl
  cases hs with
  | written w h file => exact .inl ⟨w, h, file, hsteps, hc⟩
  | failed dims why => exact .inr ⟨dims, why, hsteps, hc⟩

/-- Settles O37: a hidden step lowers the rank, and fuel above the rank changes nothing. -/
theorem hiddenStepsDoNotChangeTheCompletion : Obligations.HiddenStepsDoNotChangeTheCompletion := by
  intro s t ht
  obtain hself | ⟨inb, stage, stage', hj, hnext, hstep⟩ := tick_cases s
  · rw [Host.Outcome.next.inj (ht.symm.trans hself)]
  · obtain rfl : t = s.setStage inb stage' := Host.Outcome.next.inj (ht.symm.trans hnext)
    have hrank : stage'.rank inb.length ≤ inb.length + 3 :=
      Nat.le_of_lt_succ (Nat.lt_of_lt_of_le hstep.rank_lt (RunStage.rank_le _ _))
    have hj' := State.setStage_job s inb stage'
    have hsettle : settle (settleBound inb) (s.setStage inb stage') = settle (settleBound inb) s := by
      rw [settleBound, settle_succ_of_tick hnext, settle_succ_eq hj' hrank]
    obtain ⟨last, hl, -⟩ := settle_run hj' (RunStage.rank_le inb.length stage')
    rw [complete_run_of_settle hj' hl, complete_run_of_settle hj (hsettle ▸ hl)]

end Sys2Proof.Machine

/-! ## What a hidden step keeps of a stage

`RunStage.ok` is kept by every hidden step: the header, the tokens, the pixel pipeline and the writer in turn. -/
namespace Sys2Proof.Machine

/-! ### The header (41_rgbe_decoder.md rules R121 to R127) -/

theorem skipHeader_le {fresh : Bool} {p s : Nat} {bytes : List Byte}
    (h : skipHeader fresh p bytes = some s) : s ≤ p + bytes.length := by
  induction bytes generalizing fresh p with
  | nil => cases h
  | cons b rest ih =>
    rw [List.length_cons]
    simp only [skipHeader] at h
    split at h
    · split at h
      · cases h; omega
      · have := ih h; omega
    · have := ih h; omega

theorem length_lt_of_lineOf {bytes line : List Byte} (h : lineOf bytes = some line) :
    line.length < bytes.length := by
  induction bytes generalizing line with
  | nil => cases h
  | cons b rest ih =>
    simp only [lineOf] at h
    split at h
    · cases h; exact Nat.succ_pos _
    · obtain ⟨line', hline, rfl⟩ := Option.map_eq_some_iff.1 h
      exact Nat.succ_lt_succ (ih hline)

theorem parseResolution_error_pos {p : Params} {inb : List Byte} {s : Nat} {why : Failure}
    (h : parseResolution p inb s = .error why) : why.pos = s := by
  unfold parseResolution at h
  split at h
  · cases h; rfl
  · split at h
    · cases h; rfl
    · split at h
      · cases h; rfl
      · split at h
        · cases h; rfl
        · split at h <;> cases h
          rfl

theorem parseResolution_ok_bounds {p : Params} {inb : List Byte} {s : Nat} {a : Accepted}
    (h : parseResolution p inb s = .ok a) : dimsOk p a.w a.h = true ∧ a.next ≤ inb.length := by
  unfold parseResolution at h
  split at h
  · cases h
  · next line hline =>
    split at h
    · cases h
    · split at h
      · cases h
      · next hpos =>
        split at h
        · cases h
        · next hmax =>
          split at h <;> cases h
          have hlt := length_lt_of_lineOf hline
          rw [List.length_drop] at hlt
          simp only [dimsOk, decide_eq_true_eq]
          omega

theorem headerStage_ok (p : Params) (inb : List Byte) : (headerStage p inb).ok p inb.length = true := by
  unfold headerStage
  split
  · next why h =>
    have hpos : why.pos ≤ inb.length := by
      unfold parseHeader at h
      split at h
      · cases h; exact Nat.le_refl _
      · next s hs =>
        have := skipHeader_le hs
        rw [parseResolution_error_pos h]
        omega
    simpa [RunStage.ok] using hpos
  · next a h =>
    unfold parseHeader at h
    split at h
    · cases h
    · obtain ⟨hdims, hnext⟩ := parseResolution_ok_bounds h
      have hh : 0 < a.h := by
        simp only [dimsOk, decide_eq_true_eq] at hdims
        omega
      simp [RunStage.ok, Seq.ok, Seq.first, Phase.ok, hdims, hnext, hh]

/-! ### The scanlines (rules R128 to R136) -/

/-- What holds of a sequencer in every phase. -/
structure Seq.Bounds (p : Params) (L : Nat) (q : Seq) : Prop where
  dims : dimsOk p q.w q.h = true
  cursor : q.p ≤ L
  rows : q.y < q.h
  filled : q.raster.length = q.y * q.w

theorem Seq.ok_iff {p : Params} {L : Nat} {q : Seq} :
    q.ok p L = true ↔ q.Bounds p L ∧ q.phase.ok q.w = true := by
  simp only [Seq.ok, Bool.and_eq_true, decide_eq_true_eq]
  exact ⟨fun ⟨⟨hd, hp, hy, hr⟩, hphase⟩ => ⟨⟨hd, hp, hy, hr⟩, hphase⟩,
    fun ⟨⟨hd, hp, hy, hr⟩, hphase⟩ => ⟨⟨hd, hp, hy, hr⟩, hphase⟩⟩

section
variable {p : Params} {L : Nat} {q : Seq}

theorem Seq.Bounds.width_pos (h : q.Bounds p L) : 0 < q.w := by
  have hd := h.dims
  simp only [dimsOk, decide_eq_true_eq] at hd
  omega

theorem Seq.Bounds.moveTo (h : q.Bounds p L) {n : Nat} (hn : n ≤ L) : { q with p := n }.Bounds p L :=
  ⟨h.dims, hn, h.rows, h.filled⟩

theorem Seq.Bounds.scanlines_ok (h : q.Bounds p L) {phase : Phase} (hp : phase.ok q.w = true) :
    (RunStage.scanlines { q with phase := phase }).ok p L = true :=
  Seq.ok_iff.2 ⟨⟨h.dims, h.cursor, h.rows, h.filled⟩, hp⟩

theorem Seq.Bounds.raise_ok (h : q.Bounds p L) {why : Failure} (hw : why.pos ≤ L) :
    (q.raise why).ok p L = true := by
  simp [Seq.raise, RunStage.ok, hw, h.dims]

/-- A packet cut short fails at its count byte or at the end of the input (rule R195). -/
theorem Seq.pos_ite_le (hp : q.p ≤ L) {c : Prop} [Decidable c] :
    (if c then (⟨.rleOverrun, q.p⟩ : Failure) else ⟨.eofRle, L⟩).pos ≤ L := by
  split
  · exact hp
  · exact Nat.le_refl L

theorem Seq.Bounds.rejected_ok (h : q.Bounds p L) (r : Reject) :
    (q.raise (q.rejected L r)).ok p L = true := by
  refine h.raise_ok ?_
  cases r with
  | shortPixel => exact Nat.le_refl L
  | noCountByte => exact Nat.le_refl L
  | shortRun n => exact Seq.pos_ite_le h.cursor
  | shortLiteral n => exact Seq.pos_ite_le h.cursor

/-- A full row of pixels ends its scanline within the bounds (rules R128, R140). -/
theorem Seq.Bounds.finishRow_ok (h : q.Bounds p L) {row : List Rgbe} (hrow : row.length = q.w) :
    (q.finishRow row).ok p L = true := by
  have hlen : (q.raster ++ row.map expand).length = (q.y + 1) * q.w := by
    rw [List.length_append, List.length_map, h.filled, hrow, Nat.succ_mul]
  unfold Seq.finishRow
  split
  · next hy => exact Seq.ok_iff.2 ⟨⟨h.dims, h.cursor, hy, hlen⟩, rfl⟩
  · have hy : q.y + 1 = q.h := by have := h.rows; omega
    simp only [RunStage.ok, hlen, hy, h.dims, Nat.mul_comm q.h, decide_true, Bool.and_self]

theorem Seq.Bounds.takePixel_ok (h : q.Bounds p L) {row : List Rgbe} (hrow : row.length < q.w)
    (px : Rgbe) : (q.takePixel L row px).ok p L = true := by
  unfold Seq.takePixel
  split
  · exact h.raise_ok (Nat.le_refl L)
  · have hcursor : q.p + 4 ≤ L := by omega
    have hmove := h.moveTo hcursor
    split
    · next hlt => exact hmove.scanlines_ok (by simpa [Phase.ok] using hlt)
    · refine hmove.finishRow_ok ?_
      rw [List.length_append, List.length_singleton]
      dsimp only
      omega

theorem Seq.Bounds.takeMarker_ok (h : q.Bounds p L) (hw : Config.rleEligible q.w = true) (wm : Nat) :
    (q.takeMarker L wm).ok p L = true := by
  unfold Seq.takeMarker
  split
  · exact h.raise_ok (Nat.le_refl L)
  · split
    · exact h.raise_ok h.cursor
    · have hcursor : q.p + 4 ≤ L := by omega
      refine (h.moveTo hcursor).scanlines_ok ?_
      simp only [Phase.ok, hw, planesOk, PlaneBuf.empty, List.length_nil, h.width_pos, decide_true,
        and_self, Bool.and_self]

/-- A plane that its packet does not fill stays the one being read. -/
theorem planesOk_append {w : Nat} {buf : PlaneBuf} {k : Plane} (h : planesOk w buf k = true)
    {values : List Byte} (hlt : ((buf.append k values).get k).length < w) :
    planesOk w (buf.append k values) k = true := by
  cases k <;> simp_all [planesOk, PlaneBuf.append, PlaneBuf.get]

/-- Behind a plane that its packet fills, the next one is empty. -/
theorem planesOk_append_next {w : Nat} {buf : PlaneBuf} {k k' : Plane} (h : planesOk w buf k = true)
    {values : List Byte} (hfull : ((buf.append k values).get k).length = w) (hw : 0 < w)
    (hk : k.next = some k') : planesOk w (buf.append k values) k' = true := by
  cases k <;> cases hk <;> simp_all [planesOk, PlaneBuf.append, PlaneBuf.get]

/-- Behind plane E, which its packet fills, the planes make a full row (rule R135). -/
theorem length_zipPlanes_of_full {w : Nat} {buf : PlaneBuf} {k : Plane} (h : planesOk w buf k = true)
    {values : List Byte} (hfull : ((buf.append k values).get k).length = w) (hk : k.next = none) :
    (zipPlanes (buf.append k values).r (buf.append k values).g (buf.append k values).b
      (buf.append k values).e).length = w := by
  cases k <;> cases hk
  simp only [planesOk, decide_eq_true_eq] at h
  obtain ⟨hr, hg, hb, -⟩ := h
  exact length_zipPlanes hr hg hb hfull

theorem Seq.Bounds.fillPlane_ok (h : q.Bounds p L) {k : Plane} {buf : PlaneBuf}
    (hw : Config.rleEligible q.w = true) (hk : planesOk q.w buf k = true) {values : List Byte}
    (hfit : (buf.get k).length + values.length ≤ q.w) : (q.fillPlane k buf values).ok p L = true := by
  rw [← List.length_append, ← PlaneBuf.get_append_same] at hfit
  simp only [Seq.fillPlane]
  split
  · next hlt =>
    exact h.scanlines_ok (by rw [Phase.ok, hw, planesOk_append hk hlt, Bool.and_self])
  · next hge =>
    have hfull : ((buf.append k values).get k).length = q.w := by omega
    split
    · next k' hnext =>
      exact h.scanlines_ok
        (by rw [Phase.ok, hw, planesOk_append_next hk hfull h.width_pos hnext, Bool.and_self])
    · next hnext => exact h.finishRow_ok (length_zipPlanes_of_full hk hfull hnext)

theorem Seq.Reads.ok {stage : RunStage} (h : q.Reads L stage) (hq : q.ok p L = true) :
    stage.ok p L = true := by
  obtain ⟨hb, hphase⟩ := Seq.ok_iff.1 hq
  cases h with
  | pixel row px hp =>
    refine hb.takePixel_ok ?_ px
    obtain ⟨-, rfl⟩ | hp := hp
    · exact hb.width_pos
    · rw [hp, Phase.ok, decide_eq_true_eq] at hphase
      exact hphase.2
  | marker wm hp hw => exact hb.takeMarker_ok hw wm
  | @packet k buf size values hp hs =>
    rw [hp, Phase.ok, Bool.and_eq_true] at hphase
    obtain ⟨hw, hk⟩ := hphase
    obtain he | he | ⟨hfit, hl, he⟩ := Seq.takePacket_cases hp L size values
    · exact he ▸ hb.raise_ok hb.cursor
    · exact he ▸ hb.raise_ok (Nat.le_refl L)
    · exact he ▸ (hb.moveTo hl).fillPlane_ok hw hk hfit
  | rejected r => exact hb.rejected_ok r

end

/-! ### The pixel pipeline and the writer (43_pipeline_tga.md rules R170 to R177) -/

theorem le_alignUp (n : Nat) {a : Nat} (ha : 1 ≤ a) : n ≤ alignUp n a := by
  have : n + (a - 1) < (n + (a - 1)) / a * a + a := Nat.lt_div_mul_add ha
  unfold alignUp
  omega

theorem length_flatMap_of_length_eq {α β : Type} {l : List α} {f : α → List β} {n : Nat}
    (h : ∀ x ∈ l, (f x).length = n) : (l.flatMap f).length = l.length * n := by
  rw [List.length_flatMap, List.map_eq_replicate_iff.2 h, List.sum_replicate_nat]

/-- The numbers below `n * k`, in `n` blocks of `k`. -/
theorem flatMap_blocks (n k : Nat) :
    (List.range n).flatMap (fun i => (List.range k).map fun j => i * k + j) = List.range (n * k) := by
  induction n with
  | zero => simp
  | succ n ih => simp [List.range_succ, Nat.succ_mul, List.range_add, ih]

theorem filter_range_lt {h m : Nat} (hm : h ≤ m) :
    (List.range m).filter (fun y => decide (y < h)) = List.range h := by
  obtain ⟨k, rfl⟩ := Nat.exists_eq_add_of_le hm
  rw [List.range_add, List.filter_append, List.filter_eq_self.2 (by simp),
    List.filter_eq_nil_iff.2 (by simp), List.append_nil]

/-- The workers' slices together are the rows in order (60_exceptions.md rule R214). -/
theorem allWorkerRows_eq {workers : Nat} (hw : 1 ≤ workers) (h : Nat) :
    allWorkerRows workers h = List.range h := by
  have hcover : h ≤ workers * ((h + (workers - 1)) / workers) :=
    Nat.mul_comm _ workers ▸ le_alignUp h hw
  unfold allWorkerRows workerRows
  rw [← List.filter_flatMap, flatMap_blocks, filter_range_lt hcover]

@[simp] theorem length_pixelBytes (tie : TieRule) (c : Rgb) : (pixelBytes tie c).length = 4 := rfl

theorem length_rasterRow {w h y : Nat} {raster : List Rgb} (hr : raster.length = w * h) (hy : y < h) :
    (rasterRow w raster y).length = w := by
  have : (y + 1) * w ≤ h * w := Nat.mul_le_mul_right w hy
  rw [rasterRow, List.length_take, List.length_drop, hr, Nat.mul_comm w h]
  rw [Nat.succ_mul] at this
  omega

theorem length_packedRow (p : Params) (seed : Nat) {w h y stride : Nat} {raster : List Rgb}
    (hr : raster.length = w * h) (hy : y < h) (hs : 4 * w ≤ stride) :
    (packedRow p seed w stride raster y).length = stride := by
  rw [packedRow, List.length_append, length_flatMap_of_length_eq fun c _ => length_pixelBytes p.tie c,
    length_rasterRow hr hy, List.length_map, List.length_range]
  omega

/-- The packed raster has `stride` bytes for each row (rule R171). -/
theorem length_bytes_pixelApply {p : Params} (hp : p.Legal) (seed : Nat) {img : HdrImage}
    (hr : img.raster.length = img.w * img.h) :
    (pixelApply p seed img).bytes.length = (pixelApply p seed img).stride * img.h := by
  obtain ⟨-, -, -, -, ⟨halign, -⟩, hworkers⟩ := hp
  simp only [pixelApply, allWorkerRows_eq hworkers]
  rw [length_flatMap_of_length_eq fun y hy => length_packedRow p seed hr (List.mem_range.1 hy)
    (le_alignUp _ (by omega)), List.length_range, Nat.mul_comm]

theorem pixelApply_ok {p : Params} (hp : p.Legal) (seed L : Nat) {img : HdrImage}
    (h : (RunStage.decoded img).ok p L = true) : (RunStage.packed (pixelApply p seed img)).ok p L = true := by
  simp only [RunStage.ok, Bool.and_eq_true, decide_eq_true_eq] at h ⊢
  exact ⟨h.1, rfl, length_bytes_pixelApply hp seed h.2⟩

@[simp] theorem length_tgaHeader (w h : Nat) : (tgaHeader w h).length = 18 := rfl

/-- The file has its header and the pixels of every row, without the padding (rule R175). -/
theorem length_of_tgaWrite {p : Params} {pk : PackedImage} {file : List Byte}
    (h : tgaWrite p pk = .ok file) (hs : 4 * pk.w ≤ pk.stride)
    (hb : pk.bytes.length = pk.stride * pk.h) :
    file.length = tgaSize pk.w pk.h ∧ file.length ≤ p.outCap := by
  unfold tgaWrite at h
  split at h
  · cases h
  · next hcap =>
    cases h
    have hrow : ∀ y ∈ List.range pk.h,
        ((pk.bytes.drop (y * pk.stride)).take (4 * pk.w)).length = 4 * pk.w := by
      intro y hy
      have : (y + 1) * pk.stride ≤ pk.h * pk.stride :=
        Nat.mul_le_mul_right pk.stride (List.mem_range.1 hy)
      rw [Nat.succ_mul, Nat.mul_comm pk.h] at this
      rw [List.length_take, List.length_drop, hb]
      omega
    have hlen : 18 + pk.h * (4 * pk.w) = tgaSize pk.w pk.h := by
      rw [tgaSize, Nat.mul_comm pk.h]
    rw [List.length_append, length_tgaHeader, length_flatMap_of_length_eq hrow, List.length_range, hlen]
    exact ⟨rfl, by omega⟩

theorem tgaWrite_error_pos {p : Params} {pk : PackedImage} {why : Failure}
    (h : tgaWrite p pk = .error why) : why.pos = 0 := by
  unfold tgaWrite at h
  split at h <;> cases h
  rfl

theorem writeStage_ok {p : Params} (hp : p.Legal) {L : Nat} {pk : PackedImage}
    (h : (RunStage.packed pk).ok p L = true) : (writeStage p pk).ok p L = true := by
  obtain ⟨-, -, -, -, ⟨halign, -⟩, -⟩ := hp
  simp only [RunStage.ok, Bool.and_eq_true, decide_eq_true_eq] at h
  obtain ⟨hdims, hstride, hbytes⟩ := h
  unfold writeStage
  split
  · next why hw => simp [RunStage.ok, tgaWrite_error_pos hw, hdims]
  · next file hw =>
    simpa only [RunStage.ok, hdims, Bool.true_and, decide_eq_true_eq] using
      length_of_tgaWrite hw (hstride ▸ le_alignUp _ (by omega)) hbytes

/-! ### Every hidden step -/

theorem HiddenStep.ok {p : Params} (hp : p.Legal) {seed : Nat} {inb : List Byte} {stage stage' : RunStage}
    (hs : HiddenStep p seed inb stage stage') (h : stage.ok p inb.length = true) :
    stage'.ok p inb.length = true := by
  cases hs with
  | header => exact headerStage_ok p inb
  | token hr => exact hr.ok h
  | pack img => exact pixelApply_ok hp seed _ h
  | write pk => exact writeStage_ok hp h

theorem hiddenSteps_ok {p : Params} (hp : p.Legal) {seed : Nat} {inb : List Byte} {stage stage' : RunStage}
    (hs : HiddenSteps p seed inb stage stage') (h : stage.ok p inb.length = true) :
    stage'.ok p inb.length = true := by
  induction hs with
  | none _ => exact h
  | step hstep _ ih => exact ih (hstep.ok hp h)

end Sys2Proof.Machine

/-! ## The invariant

One lemma for each named update of the state, then one for each kind of move. -/
namespace Sys2Proof.Machine

/-! ### The command in flight -/

theorem State.jobOk_of_idle {s : State} (hj : s.job = none) : s.jobOk = true := by
  simp only [State.jobOk, hj]

theorem State.jobOk_encode_iff {s : State} {cr cg cb : Word} (hj : s.job = some (.encode cr cg cb)) :
    s.jobOk = true ↔ cr = s.pixR ∧ cg = s.pixG ∧ cb = s.pixB := by
  simp only [State.jobOk, hj, decide_eq_true_eq]

theorem State.jobOk_run_iff {s : State} {inb : List Byte} {stage : RunStage}
    (hj : s.job = some (.run inb stage)) :
    s.jobOk = true ↔ (inb = s.captureIn ∧ s.width = 0#16 ∧ s.height = 0#16 ∧ s.outLen = 0#32) ∧
      stage.ok s.params inb.length = true := by
  simp only [State.jobOk, hj, Bool.and_eq_true, decide_eq_true_eq]

theorem State.busy_of_job {s : State} {j : Job} (hj : s.job = some j) : s.busy = true := by
  simp [State.busy, hj]

theorem State.job_eq_none_of_not_busy {s : State} (hb : s.busy = false) : s.job = none :=
  (State.busy_eq_false_iff s).1 hb

/-! ### The named updates -/

/-- The invariant does not speak of VIOL, IRQ_EN, the script or the last result, and a draw may be taken. -/
theorem State.Inv.withFree {s : State} (h : s.Inv) (viol irqEn : Bool) (script : List Event)
    (resp : Response) (n : Nat) :
    { s with viol := viol, irqEn := irqEn, script := script, resp := resp, draws := s.draws + n }.Inv := by
  obtain ⟨hp, hs, hr, hm, hf, ⟨hin, hout, hne⟩, hj⟩ := h
  exact ⟨hp, hs, hr, hm, hf, ⟨Nat.lt_add_right n hin, Nat.lt_add_right n hout, hne⟩, hj⟩

theorem State.Inv.violate {s : State} (h : s.Inv) : s.violate.Inv :=
  h.withFree true s.irqEn s.script s.resp 0

theorem State.Inv.drawWord {s : State} (h : s.Inv) : s.drawWord.Inv :=
  h.withFree s.viol s.irqEn s.script _ 1

theorem State.Inv.drawByte {s : State} (h : s.Inv) (a : Nat) : (s.drawByte a).Inv :=
  h.withFree s.viol s.irqEn s.script _ 1

theorem State.Inv.acknowledge {s : State} (h : s.Inv) : s.acknowledge.Inv := by
  obtain ⟨hp, -, -, hm, hf, hd, hj⟩ := h
  exact ⟨hp, ⟨by simp, fun _ => ⟨rfl, rfl⟩⟩, ⟨fun _ => ⟨rfl, rfl⟩, nofun⟩, hm, hf, hd, hj⟩

/-- A state whose report is cleared may take a command in flight. -/
theorem State.Inv.withJob {s : State} (h : s.Inv) (hdone : s.done = false) (herr : s.err = false)
    {job : Option Job} (hj : { s with job := job }.jobOk = true) : { s with job := job }.Inv := by
  obtain ⟨hp, ⟨hne, -⟩, hr, hm, hf, hd, -⟩ := h
  exact ⟨hp, ⟨hne, fun _ => ⟨hdone, herr⟩⟩, hr, hm, hf, hd, hj⟩

/-- An idle state may give up its last file for a new draw (20_memory.md rule R67). -/
theorem State.Inv.clearFile {s : State} (h : s.Inv) (hj : s.job = none) :
    { s with
      width := 0#16, height := 0#16, outLen := 0#32, outMem := [], outSeed := s.draws
      draws := s.draws + 1 }.Inv := by
  obtain ⟨hp, hs, hr, ⟨hin, -, hina, -, hlen⟩, -, ⟨hdin, -, -⟩, -⟩ := h
  exact ⟨hp, hs, hr, ⟨hin, rfl, hina, nofun, hlen⟩, ⟨rfl, .inl rfl⟩,
    ⟨Nat.lt_succ_of_lt hdin, Nat.lt_succ_self _, Nat.ne_of_lt hdin⟩, State.jobOk_of_idle hj⟩

/-- While BUSY the report is cleared (10_state.md rule R26). -/
theorem State.Inv.report_clear {s : State} (h : s.Inv) (hb : s.busy = true) :
    s.done = false ∧ s.err = false :=
  h.2.1.2 hb

theorem State.Inv.setStage {s : State} (h : s.Inv) {inb : List Byte} {stage stage' : RunStage}
    (hj : s.job = some (.run inb stage))
    (hok : stage.ok s.params inb.length = true → stage'.ok s.params inb.length = true) :
    (s.setStage inb stage').Inv := by
  obtain ⟨hdone, herr⟩ := h.report_clear (State.busy_of_job hj)
  refine h.withJob hdone herr ?_
  obtain ⟨-, -, -, -, -, -, hjob⟩ := h
  obtain ⟨hcap, hstage⟩ := (State.jobOk_run_iff hj).1 hjob
  exact (State.jobOk_run_iff rfl).2 ⟨hcap, hok hstage⟩

theorem State.Inv.publishPixel {s : State} (h : s.Inv) (hb : s.busy = true) (px : Rgbm) :
    (s.publishPixel px).Inv := by
  obtain ⟨-, herr⟩ := h.report_clear hb
  obtain ⟨hp, -, hr, hm, hf, hd, -⟩ := h
  exact ⟨hp, ⟨by simp [herr], nofun⟩, hr, hm, hf, hd, rfl⟩

theorem Detail.mem_all (d : Detail) : d ∈ Detail.all := by cases d <;> decide

theorem State.Inv.fail {s : State} (h : s.Inv) (dims : Option (Nat × Nat)) (why : Failure) :
    (s.fail dims why).Inv := by
  obtain ⟨hp, -, -, ⟨hin, -, hina, -, hlen⟩, -, hd, -⟩ := h
  exact ⟨hp, ⟨by simp, nofun⟩, ⟨nofun, fun _ => List.mem_map.2 ⟨_, Detail.mem_all _, rfl⟩⟩,
    ⟨hin, rfl, hina, nofun, hlen⟩, ⟨rfl, .inl rfl⟩, hd, rfl⟩

theorem toNat_ofNat_of_lt {w n : Nat} (h : n < 2 ^ w) : (BitVec.ofNat w n).toNat = n := by
  rw [BitVec.toNat_ofNat, Nat.mod_eq_of_lt h]

theorem lt_of_mem_cellsFrom {file : List Byte} {c : Host.Cell} (h : c ∈ cellsFrom 0 file) :
    c.1 < file.length := by
  have : c.1 ∈ (cellsFrom 0 file).map Prod.fst := List.mem_map_of_mem h
  rw [map_fst_cellsFrom] at this
  simpa using this

theorem State.Inv.publishFile {s : State} (h : s.Inv) (hb : s.busy = true) {w hgt L : Nat}
    {file : List Byte} (hok : (RunStage.written w hgt file).ok s.params L = true) :
    (s.publishFile w hgt file).Inv := by
  obtain ⟨-, herr⟩ := h.report_clear hb
  obtain ⟨hp, -, hr, ⟨hin, -, hina, -, hlen⟩, -, hd, -⟩ := h
  have ⟨⟨_, hmaxW⟩, ⟨_, hmaxH⟩, _, ⟨_, hcap⟩, _⟩ := hp
  simp only [RunStage.ok, dimsOk, Bool.and_eq_true, decide_eq_true_eq] at hok
  obtain ⟨⟨⟨-, hw⟩, -, hh⟩, hsize, hfit⟩ := hok
  have hoLen : (BitVec.ofNat 32 file.length).toNat = file.length :=
    toNat_ofNat_of_lt (by omega)
  refine ⟨hp, ⟨by simp [herr], nofun⟩, hr, ⟨hin, wf_cellsFrom 0 file, hina, ?_, hlen⟩,
    ⟨?_, .inr ?_⟩, hd, rfl⟩
  · intro c hc
    exact Nat.lt_of_lt_of_le (lt_of_mem_cellsFrom hc) hfit
  · rw [State.publishFile_outMem, State.publishFile_outLen, hoLen, map_fst_cellsFrom,
      List.range_eq_range']
  · rw [State.publishFile_outLen, State.publishFile_width, State.publishFile_height, hoLen, hsize,
      toNat_ofNat_of_lt (by omega), toNat_ofNat_of_lt (by omega)]

/-- The host may write PIX_R, PIX_G and PIX_B of an idle block. -/
theorem State.Inv.withPixels {s : State} (h : s.Inv) (hj : s.job = none) (r g b : Word) :
    { s with pixR := r, pixG := g, pixB := b }.Inv := by
  obtain ⟨hp, hs, hr, hm, hf, hd, -⟩ := h
  exact ⟨hp, hs, hr, hm, hf, hd, State.jobOk_of_idle hj⟩

theorem State.Inv.withInLen {s : State} (h : s.Inv) (hj : s.job = none) {n : Word}
    (hn : n.toNat ≤ s.params.inCap) : { s with inLen := n }.Inv := by
  obtain ⟨hp, hs, hr, ⟨hin, hout, hina, houta, -⟩, hf, hd, -⟩ := h
  exact ⟨hp, hs, hr, ⟨hin, hout, hina, houta, hn⟩, hf, hd, State.jobOk_of_idle hj⟩

theorem State.Inv.storeIn {s : State} (h : s.Inv) (hj : s.job = none) {a : Nat}
    (ha : a < s.params.inCap) (b : Byte) : { s with inMem := Memory.store s.inMem a b }.Inv := by
  obtain ⟨hp, hs, hr, ⟨hin, hout, hina, houta, hlen⟩, hf, hd, -⟩ := h
  refine ⟨hp, hs, hr, ⟨Memory.wf_store a b hin, hout, fun c hc => ?_, houta, hlen⟩, hf, hd,
    State.jobOk_of_idle hj⟩
  obtain hca | hc := Memory.mem_store hc
  · exact hca ▸ ha
  · exact hina c hc

/-! ### Reset -/

theorem State.inv_resetWith {p : Params} (hp : p.Legal) : (State.resetWith p).Inv :=
  ⟨hp, ⟨nofun, nofun⟩, ⟨fun _ => ⟨rfl, rfl⟩, nofun⟩, ⟨rfl, rfl, nofun, nofun, Nat.zero_le _⟩,
    ⟨rfl, .inl rfl⟩, ⟨Nat.zero_lt_two, Nat.one_lt_two, Nat.zero_ne_one⟩, rfl⟩

theorem State.Inv.reset {s : State} (h : s.Inv) : (resetStep s).Inv := by
  obtain ⟨hp, hs, hr, hm, hf, -, hj⟩ := State.inv_resetWith h.1
  exact ⟨hp, hs, hr, hm, hf, ⟨by simp [resetStep], by simp [resetStep], by simp [resetStep]⟩, hj⟩

theorem Params.legal_standard : Params.standard.Legal := by decide

/-! ### The commands at their issue -/

/-- All a command can do at its issue (40_commands.md rules R110 to R116); `violate` is the answer to a reserved
opcode, and to every command while BUSY. -/
inductive Issued (s : State) : Instr → State → Prop where
  | violate (i : Instr) : Issued s i s.violate
  | nop (g : BitVec 24) : Issued s (.nop g) s
  | run (g : BitVec 24) (hj : s.job = none) :
      Issued s (.run g) { s.acknowledge with
        width := 0#16, height := 0#16, outLen := 0#32, outMem := [], outSeed := s.draws
        draws := s.draws + 1, job := some (.run s.captureIn .header) }
  | encodePixel (g : BitVec 24) (hj : s.job = none) :
      Issued s (.encodePixel g) { s.acknowledge with job := some (.encode s.pixR s.pixG s.pixB) }
  | clear (g : BitVec 24) : Issued s (.clear g) { s.acknowledge with viol := false }

theorem issued_of_issue {s : State} {i : Instr} {f : State → State} (h : s.job = none → Issued s i (f s)) :
    ∃ t, s.issue f = .next t ∧ Issued s i t := by
  cases hb : s.busy
  · exact ⟨_, State.issue_of_idle hb f, h (State.job_eq_none_of_not_busy hb)⟩
  · exact ⟨_, State.issue_of_busy hb f, .violate i⟩

/-- Every command answers a next state, by `Issued`. -/
theorem exec_command {i : Instr} (hi : i.isCommand = true) (s : State) :
    ∃ t, exec i s = .next t ∧ Issued s i t := by
  cases i with
  | nop g => rw [exec_nop]; exact issued_of_issue fun _ => .nop g
  | run g => rw [exec_run]; exact issued_of_issue (.run g)
  | encodePixel g => rw [exec_encodePixel]; exact issued_of_issue (.encodePixel g)
  | clear g => rw [exec_clear]; exact issued_of_issue fun _ => .clear g
  | reserved0407 x g => exact issued_of_issue fun _ => .violate _
  | reserved080F x g => exact issued_of_issue fun _ => .violate _
  | reserved101F x g => exact issued_of_issue fun _ => .violate _
  | reserved203F x g => exact issued_of_issue fun _ => .violate _
  | reserved407F x g => exact issued_of_issue fun _ => .violate _
  | reserved80FF x g => exact issued_of_issue fun _ => .violate _
  | scanlineMarker hi lo => cases hi
  | rleRun n v => cases hi
  | rleLiteral bytes => cases hi
  | rleLiteral128 bytes => cases hi
  | flatPixel r g b e => cases hi

theorem isCommand_decodeCommand (w : Word) : (decodeCommand w).isCommand = true := by
  unfold decodeCommand
  dsimp only
  repeat' split
  all_goals rfl

theorem wf_of_isCommand {i : Instr} (hi : i.isCommand = true) : i.wf = true := by
  cases i with
  | rleRun n v => cases hi
  | rleLiteral bytes => cases hi
  | rleLiteral128 bytes => cases hi
  | _ => rfl

theorem State.Inv.issued {s t : State} (h : s.Inv) {i : Instr} (ht : Issued s i t) : t.Inv := by
  cases ht with
  | violate _ => exact h.violate
  | nop _ => exact h
  | run _ hj =>
    exact (h.acknowledge.clearFile hj).withJob rfl rfl
      ((State.jobOk_run_iff rfl).2 ⟨⟨rfl, rfl, rfl, rfl⟩, rfl⟩)
  | encodePixel _ hj =>
    exact h.acknowledge.withJob rfl rfl ((State.jobOk_encode_iff rfl).2 ⟨rfl, rfl, rfl⟩)
  | clear _ => exact h.acknowledge.withFree false s.irqEn s.script s.resp 0

/-! ### What a move can do -/

/-- All an access of the host can do (20_memory.md rules R60 to R69). -/
inductive Accessed (s : State) : State → Prop where
  | read (resp : Response) : Accessed s { s with resp := resp }
  | drawWord : Accessed s s.drawWord
  | drawByte (a : Nat) : Accessed s (s.drawByte a)
  | command {i : Instr} {t : State} (h : Issued s i t) : Accessed s t
  | dropped : Accessed s s.violate
  | ignored : Accessed s s
  | inLen (hj : s.job = none) (v : Word) :
      Accessed s { s with inLen := BitVec.ofNat 32 (Nat.min v.toNat s.params.inCap) }
  | pixels (hj : s.job = none) (r g b : Word) : Accessed s { s with pixR := r, pixG := g, pixB := b }
  | irqEn (b : Bool) : Accessed s { s with irqEn := b }
  | inMem (hj : s.job = none) (a : Nat) (ha : a < s.params.inCap) (b : Byte) :
      Accessed s { s with inMem := Memory.store s.inMem a b }

theorem accessed_readReg (r : Reg) (s : State) : Accessed s (readReg r s) := by
  unfold readReg
  split
  · exact .drawWord
  · exact .read _

theorem accessed_unlessBusy {s : State} {f : State → State} (h : s.job = none → Accessed s (f s)) :
    Accessed s (s.unlessBusy f) := by
  obtain ⟨-, he⟩ | ⟨hb, he⟩ := State.unlessBusy_cases s f
  · exact he ▸ .dropped
  · exact he ▸ h (State.job_eq_none_of_not_busy hb)

theorem accessed_writeReg (r : Reg) (v : Word) (s : State) :
    ∃ t, writeReg r v s = .next t ∧ Accessed s t := by
  cases r with
  | cmd =>
    obtain ⟨t, ht, hi⟩ := exec_command (isCommand_decodeCommand v) s
    exact ⟨t, ht, .command hi⟩
  | inLen => exact ⟨_, rfl, accessed_unlessBusy fun hj => .inLen hj v⟩
  | pixR => exact ⟨_, rfl, accessed_unlessBusy fun hj => .pixels hj v s.pixG s.pixB⟩
  | pixG => exact ⟨_, rfl, accessed_unlessBusy fun hj => .pixels hj s.pixR v s.pixB⟩
  | pixB => exact ⟨_, rfl, accessed_unlessBusy fun hj => .pixels hj s.pixR s.pixG v⟩
  | irqEn => exact ⟨_, rfl, .irqEn _⟩
  | _ => exact ⟨_, rfl, .ignored⟩

theorem Reg.isSome_ofOffset : ∀ off ≤ 0x3C, off % 4 = 0 → (Reg.ofOffset off).isSome = true := by decide

/-- No register is reached only by an access outside the interface (rule R62). -/
theorem not_inside_of_regAt_none {off bytes : Nat} (h : regAt off bytes = none) :
    ¬(bytes = 4 ∧ off % 4 = 0 ∧ off ≤ 0x3C) := by
  rintro ⟨hbytes, hmod, hle⟩
  rw [regAt, if_pos hbytes] at h
  simpa [h] using Reg.isSome_ofOffset off hle hmod

/-- An access is answered by `Accessed`, or refused because it is outside the interface. -/
theorem hostAccess_cases (x : HostAccess) (s : State) :
    (∃ t, hostAccess x s = .next t ∧ Accessed s t) ∨
      (hostAccess x s = .refused x.refusal ∧ x.inside s.params = false) := by
  cases x with
  | regRead off bytes =>
    cases hr : regAt off bytes with
    | some r => exact .inl ⟨_, by simp only [hostAccess, hr], accessed_readReg r s⟩
    | none =>
      exact .inr ⟨by simp only [hostAccess, hr, HostAccess.refusal],
        decide_eq_false (not_inside_of_regAt_none hr)⟩
  | regWrite off bytes v =>
    cases hr : regAt off bytes with
    | some r => exact .inl (by simpa only [hostAccess, hr] using accessed_writeReg r v s)
    | none =>
      exact .inr ⟨by simp only [hostAccess, hr, HostAccess.refusal],
        decide_eq_false (not_inside_of_regAt_none hr)⟩
  | inRead a bytes =>
    cases hb : byteAt s.params.inCap a bytes with
    | true => exact .inl ⟨_, if_pos hb, .read _⟩
    | false => exact .inr ⟨if_neg (by simp [hb]), hb⟩
  | inWrite a bytes b =>
    cases hb : byteAt s.params.inCap a bytes with
    | true =>
      exact .inl ⟨_, if_pos hb, accessed_unlessBusy fun hj => .inMem hj a (of_decide_eq_true hb).2 b⟩
    | false => exact .inr ⟨if_neg (by simp [hb]), hb⟩
  | outRead a bytes =>
    cases hb : byteAt s.params.outCap a bytes with
    | true =>
      refine .inl ⟨_, if_pos hb, ?_⟩
      split
      · exact .drawByte a
      · exact .read _
    | false => exact .inr ⟨if_neg (by simp [hb]), hb⟩
  | outWrite a bytes b => exact .inr ⟨rfl, rfl⟩

/-- All a completion can do (10_state.md rule R22). -/
inductive Completed (s : State) : State → Prop where
  | idle (hj : s.job = none) : Completed s s
  | pixel {cr cg cb : Word} (hj : s.job = some (.encode cr cg cb)) :
      Completed s (s.publishPixel (rgbmEncode s.params.tie cr cg cb))
  | file {inb : List Byte} {stage : RunStage} (hj : s.job = some (.run inb stage)) {w h : Nat}
      {file : List Byte}
      (hs : HiddenSteps s.params s.outSeed inb stage (.written w h file)) :
      Completed s (s.publishFile w h file)
  | failure {inb : List Byte} {stage : RunStage} (hj : s.job = some (.run inb stage))
      {dims : Option (Nat × Nat)} {why : Failure}
      (hs : HiddenSteps s.params s.outSeed inb stage (.failed dims why)) :
      Completed s (s.fail dims why)

/-- Every completion answers a next state, by `Completed`. -/
theorem complete_cases (s : State) : ∃ t, complete s = .next t ∧ Completed s t := by
  rcases hj : s.job with _ | (⟨cr, cg, cb⟩ | ⟨inb, stage⟩)
  · exact ⟨s, complete_idle hj, .idle hj⟩
  · exact ⟨_, complete_encode hj, .pixel hj⟩
  · obtain ⟨w, h, file, hs, hc⟩ | ⟨dims, why, hs, hc⟩ := complete_run hj
    · exact ⟨_, hc, .file hj hs⟩
    · exact ⟨_, hc, .failure hj hs⟩

/-- All a move of the script can do. -/
inductive Moved (s : State) : State → Prop where
  | access {t : State} (h : Accessed s t) : Moved s t
  | still : Moved s s
  | hidden {inb : List Byte} {stage stage' : RunStage} (hj : s.job = some (.run inb stage))
      (hs : HiddenStep s.params s.outSeed inb stage stage') : Moved s (s.setStage inb stage')
  | completion {t : State} (h : Completed s t) : Moved s t
  | reset : Moved s (resetStep s)

/-- A move is answered by `Moved`, or it is an access outside the interface and refused. -/
theorem move_cases (e : Event) (s : State) :
    (∃ t, move e s = .next t ∧ Moved s t) ∨
      ∃ r, move e s = .refused r ∧ e.inside s.params = false := by
  cases e with
  | host x =>
    obtain ⟨t, ht, hm⟩ | ⟨hr, hi⟩ := hostAccess_cases x s
    · exact .inl ⟨t, ht, .access hm⟩
    · exact .inr ⟨_, hr, hi⟩
  | tick =>
    obtain ht | ⟨inb, stage, stage', hj, ht, hs⟩ := tick_cases s
    · exact .inl ⟨s, ht, .still⟩
    · exact .inl ⟨_, ht, .hidden hj hs⟩
  | complete =>
    obtain ⟨t, ht, hm⟩ := complete_cases s
    exact .inl ⟨t, ht, .completion hm⟩
  | reset => exact .inl ⟨_, rfl, .reset⟩

theorem step_of_script_nil {s : State} (h : s.script = []) : step s = complete s := by
  simp only [step, h, quiet]

theorem step_of_script_cons {s : State} {e : Event} {rest : List Event} (h : s.script = e :: rest) :
    step s = move e { s with script := rest } := by
  simp only [step, h]

/-! ### Every move keeps the invariant -/

theorem State.Inv.accessed {s t : State} (h : s.Inv) (ht : Accessed s t) : t.Inv := by
  cases ht with
  | read resp => exact h.withFree s.viol s.irqEn s.script resp 0
  | drawWord => exact h.drawWord
  | drawByte a => exact h.drawByte a
  | command hi => exact h.issued hi
  | dropped => exact h.violate
  | ignored => exact h
  | inLen hj v =>
    refine h.withInLen hj ?_
    rw [BitVec.toNat_ofNat]
    exact Nat.le_trans (Nat.mod_le _ _) (Nat.min_le_right _ _)
  | pixels hj r g b => exact h.withPixels hj r g b
  | irqEn b => exact h.withFree s.viol b s.script s.resp 0
  | inMem hj a ha b => exact h.storeIn hj ha b

theorem State.Inv.stage_ok {s : State} (h : s.Inv) {inb : List Byte} {stage : RunStage}
    (hj : s.job = some (.run inb stage)) : stage.ok s.params inb.length = true := by
  obtain ⟨-, -, -, -, -, -, hjob⟩ := h
  exact ((State.jobOk_run_iff hj).1 hjob).2

theorem State.Inv.completed {s t : State} (h : s.Inv) (ht : Completed s t) : t.Inv := by
  cases ht with
  | idle hj => exact h
  | pixel hj => exact h.publishPixel (State.busy_of_job hj) _
  | file hj hs => exact h.publishFile (State.busy_of_job hj) (hiddenSteps_ok h.1 hs (h.stage_ok hj))
  | failure hj hs => exact h.fail _ _

theorem State.Inv.moved {s t : State} (h : s.Inv) (ht : Moved s t) : t.Inv := by
  cases ht with
  | access ha => exact h.accessed ha
  | still => exact h
  | hidden hj hs => exact h.setStage hj (hs.ok h.1)
  | completion hc => exact h.completed hc
  | reset => exact h.reset

/-! ### The statements -/

/-- Settles O4: what a step can do is `Completed` or `Moved`, and both keep the invariant. -/
theorem everyStepKeepsTheInvariant : Obligations.EveryStepKeepsTheInvariant := by
  intro s t h ht
  cases hscript : s.script with
  | nil =>
    rw [step_of_script_nil hscript] at ht
    obtain ⟨t', ht', hc⟩ := complete_cases s
    obtain rfl : t' = t := Host.Outcome.next.inj (ht'.symm.trans ht)
    exact h.completed hc
  | cons e rest =>
    rw [step_of_script_cons hscript] at ht
    obtain ⟨t', ht', hm⟩ | ⟨r, hr, -⟩ := move_cases e { s with script := rest }
    · obtain rfl : t' = t := Host.Outcome.next.inj (ht'.symm.trans ht)
      exact State.Inv.moved (h.withFree s.viol s.irqEn rest s.resp 0) hm
    · cases hr.symm.trans ht

/-- Settles O3: the reset state of legal parameters meets every clause of the invariant. -/
theorem invariantHoldsAtReset : Obligations.InvariantHoldsAtReset :=
  ⟨fun _ hp => State.inv_resetWith hp, State.inv_resetWith Params.legal_standard⟩

end Sys2Proof.Machine

/-! ## The script is made move by move, and then the block is idle -/
namespace Sys2Proof.Machine

theorem Issued.frame {s t : State} {i : Instr} (h : Issued s i t) :
    t.params = s.params ∧ t.script = s.script := by
  cases h <;> exact ⟨rfl, rfl⟩

theorem Accessed.frame {s t : State} (h : Accessed s t) : t.params = s.params ∧ t.script = s.script := by
  cases h with
  | command hi => exact hi.frame
  | _ => exact ⟨rfl, rfl⟩

theorem Completed.frame {s t : State} (h : Completed s t) : t.params = s.params ∧ t.script = s.script := by
  cases h <;> exact ⟨rfl, rfl⟩

/-- No move changes the parameters or the moves still to come. -/
theorem Moved.frame {s t : State} (h : Moved s t) : t.params = s.params ∧ t.script = s.script := by
  cases h with
  | access ha => exact ha.frame
  | completion hc => exact hc.frame
  | _ => exact ⟨rfl, rfl⟩

/-- A completion leaves the block idle (10_state.md rule R22). -/
theorem Completed.job_eq_none {s t : State} (h : Completed s t) : t.job = none := by
  cases h with
  | idle hj => exact hj
  | _ => rfl

theorem run_succ_of_step {s t : State} (h : step s = .next t) (k : Nat) :
    Host.Core.run Sys2Proof.core (k + 1) s = Host.Core.run Sys2Proof.core k t := by
  have hs : Sys2Proof.core.step s = .next t := h
  simp only [Host.Core.run, hs]

/-- A step whose move is inside the interface makes it and goes on with the rest of the script. -/
theorem step_of_inside {s : State} {e : Event} {rest : List Event} (h : s.script = e :: rest)
    (he : e.inside s.params = true) :
    ∃ t, step s = .next t ∧ t.params = s.params ∧ t.script = rest := by
  rw [step_of_script_cons h]
  obtain ⟨t, ht, hm⟩ | ⟨r, -, hi⟩ := move_cases e { s with script := rest }
  · exact ⟨t, ht, hm.frame⟩
  · exact absurd (he.symm.trans hi) (by decide)

/-- Settles O9, by induction on the script. -/
theorem everyBlockIsIdleAfterItsScriptAndOneStep :
    Obligations.EveryBlockIsIdleAfterItsScriptAndOneStep := by
  intro s
  induction hscript : s.script generalizing s with
  | nil =>
    intro _
    obtain ⟨t, ht, hc⟩ := complete_cases s
    refine ⟨t, ?_, (State.execState_idle_iff t).2 hc.job_eq_none⟩
    rw [List.length_nil, run_succ_of_step ((step_of_script_nil hscript).trans ht)]
    rfl
  | cons e rest ih =>
    intro hin
    obtain ⟨t, ht, hparams, hrest⟩ := step_of_inside hscript (hin e List.mem_cons_self)
    obtain ⟨u, hu, hidle⟩ := ih t hrest fun e' he' => hparams ▸ hin e' (List.mem_cons_of_mem e he')
    exact ⟨u, by rw [List.length_cons, run_succ_of_step ht, hu], hidle⟩

end Sys2Proof.Machine

/-! ## What the tokens, the hidden steps and the commands leave as it was -/
namespace Sys2Proof.Machine

/-- A stage shows in no register: the block is BUSY before and after. -/
theorem State.regValue_setStage {s : State} (hb : s.busy = true) (inb : List Byte) (stage : RunStage)
    (r : Reg) : (s.setStage inb stage).regValue r = s.regValue r := by
  cases r with
  | status => simp [State.regValue, State.status, hb]
  | _ => rfl

/-- A token that answers a next state changed the stage of the RUN it was read in. -/
theorem exec_token_setStage {s t : State} {i : Instr} (hi : i.isCommand = false)
    (h : exec i s = .next t) : ∃ inb q stage, s.Reading inb q ∧ t = s.setStage inb stage := by
  cases i with
  | scanlineMarker hi lo =>
    obtain ⟨inb, q, hj, -, -, ht⟩ := State.atRowStart_cases h
    exact ⟨inb, q, _, hj, ht⟩
  | rleRun n v =>
    obtain ⟨inb, q, k, buf, hj, -, ht⟩ := State.inPlane_cases h
    exact ⟨inb, q, _, hj, ht⟩
  | rleLiteral bytes =>
    obtain ⟨inb, q, k, buf, hj, -, ht⟩ := State.inPlane_cases h
    exact ⟨inb, q, _, hj, ht⟩
  | rleLiteral128 bytes =>
    obtain ⟨inb, q, k, buf, hj, -, ht⟩ := State.inPlane_cases h
    exact ⟨inb, q, _, hj, ht⟩
  | flatPixel r g b e =>
    rw [exec_flatPixel] at h
    obtain ⟨inb, q, row, hj, -, ht⟩ := State.inRow_cases h
    exact ⟨inb, q, _, hj, ht⟩
  | _ => cases hi

/-- Settles O35: a token only sets the stage of the RUN in flight. -/
theorem tokenFrame : Obligations.TokenFrame := by
  intro s t i hi h
  obtain ⟨inb, q, stage, hj, rfl⟩ := exec_token_setStage hi h
  exact ⟨⟨inb, q, stage, hj, rfl⟩, State.regValue_setStage (State.busy_of_job hj) inb _,
    State.inByte_congr rfl rfl, State.outByte_congr rfl rfl, rfl⟩

/-- Settles O36: a hidden step does nothing, or only sets the stage of the RUN in flight. -/
theorem hiddenStepsShowNothing : Obligations.HiddenStepsShowNothing := by
  intro s t ht
  obtain hself | ⟨inb, stage, stage', hj, hnext, -⟩ := tick_cases s
  · obtain rfl : s = t := Host.Outcome.next.inj (hself.symm.trans ht)
    exact ⟨rfl, rfl, fun _ => rfl, rfl, rfl, fun _ stage hj => ⟨stage, hj⟩, fun _ _ _ hj => hj, id⟩
  · obtain rfl : s.setStage inb stage' = t := Host.Outcome.next.inj (hnext.symm.trans ht)
    refine ⟨rfl, by simp [State.execState, hj], State.regValue_setStage (State.busy_of_job hj) inb _, rfl,
      State.captureIn_congr rfl rfl rfl, ?_, ?_, ?_⟩
    · rintro inb' stage'' hj'
      cases hj.symm.trans hj'
      exact ⟨stage', rfl⟩
    · rintro cr cg cb hj'
      cases hj.symm.trans hj'
    · intro hj'
      cases hj.symm.trans hj'

/-- Settles O21: what a command can do at its issue is `Issued`. -/
theorem commandFrame : Obligations.CommandFrame := by
  intro s t i hi h
  obtain ⟨t', ht', hissued⟩ := exec_command hi s
  obtain rfl : t' = t := Host.Outcome.next.inj (ht'.symm.trans h)
  cases hissued with
  | run g hj =>
    exact ⟨rfl, rfl, rfl, rfl, rfl, rfl, rfl, rfl, rfl, State.inByte_congr rfl rfl,
      fun hrun => absurd rfl (hrun g)⟩
  | _ =>
    exact ⟨rfl, rfl, rfl, rfl, rfl, rfl, rfl, rfl, rfl, State.inByte_congr rfl rfl,
      fun _ => ⟨rfl, rfl, rfl, rfl, State.outByte_congr rfl rfl⟩⟩

end Sys2Proof.Machine

/-! ## The words of the registers, and the accesses to them -/
namespace Sys2Proof.Machine

/-- STATUS bit by bit (10_state.md rule R26). -/
theorem State.toNat_status (s : State) :
    s.status.toNat = (if s.busy then 1 else 0) + (if s.done then 2 else 0) + (if s.err then 4 else 0) +
      (if s.viol then 8 else 0) := by
  have hbits : ∀ b d e v : Bool,
      ((BitVec.ofBool b).setWidth 32 ||| ((BitVec.ofBool d).setWidth 32 <<< 1) |||
        ((BitVec.ofBool e).setWidth 32 <<< 2) ||| ((BitVec.ofBool v).setWidth 32 <<< 3)).toNat =
      (if b then 1 else 0) + (if d then 2 else 0) + (if e then 4 else 0) + (if v then 8 else 0) := by
    decide
  exact hbits s.busy s.done s.err s.viol

theorem State.status_resetWith (p : Params) : (State.resetWith p).status = 0#32 :=
  BitVec.eq_of_toNat_eq (State.toNat_status _)

/-- The capability registers of legal parameters (rule R36). -/
theorem toNat_capWords {p : Params} (hp : p.Legal) :
    (capDimWord p).toNat = p.maxW + p.maxH * 65536 ∧ (capInWord p).toNat = p.inCap ∧
      (capOutWord p).toNat = p.outCap := by
  obtain ⟨⟨-, hw⟩, ⟨-, hh⟩, ⟨-, hin⟩, ⟨-, hout⟩, -⟩ := hp
  refine ⟨?_, toNat_ofNat_of_lt hin, toNat_ofNat_of_lt hout⟩
  have hshift : p.maxH <<< 16 < 2 ^ 32 := by rw [Nat.shiftLeft_eq]; omega
  rw [capDimWord, BitVec.toNat_or, BitVec.toNat_shiftLeft, toNat_ofNat_of_lt (by omega),
    toNat_ofNat_of_lt (by omega), Nat.mod_eq_of_lt hshift, Nat.or_comm,
    ← Nat.shiftLeft_add_eq_or_of_lt (by omega), Nat.shiftLeft_eq, Nat.add_comm]

/-- The four fields of PIX_OUT, bit by bit (rule R34). -/
theorem Rgbm.extract_word (p : Rgbm) :
    p.word.extractLsb' 0 8 = p.r ∧ p.word.extractLsb' 8 8 = p.g ∧ p.word.extractLsb' 16 8 = p.b ∧
      p.word.extractLsb' 24 8 = p.m := by
  refine ⟨?_, ?_, ?_, ?_⟩ <;> ext i hi <;> grind [Rgbm.word]

/-- Settles O22: the completion of an ENCODE_PIXEL publishes the word of the encoder's bytes. -/
theorem encodePixelCompletionPublishesTheBytes : Obligations.EncodePixelCompletionPublishesTheBytes :=
  fun _ _ _ _ hj => ⟨_, complete_encode hj, rfl, Rgbm.extract_word _⟩

/-- Settles O1: the reset state, register by register. -/
theorem resetLeavesTheTableOfRuleR44 : Obligations.ResetLeavesTheTableOfRuleR44 := by
  refine ⟨rfl, fun p => ⟨rfl, State.status_resetWith p, fun r hdim hin hout => ?_,
    fun hp => toNat_capWords hp, rfl, rfl, Memory.find_nil, Memory.find_nil⟩⟩
  cases r with
  | capDim => exact absurd rfl hdim
  | capIn => exact absurd rfl hin
  | capOut => exact absurd rfl hout
  | status => exact State.status_resetWith p
  | _ => rfl

@[simp] theorem regAt_offset (r : Reg) : regAt r.offset 4 = some r := by
  cases r <;> rfl

theorem Reg.isResult_iff (r : Reg) :
    r.isResult = true ↔ r ∈ [Reg.errinfo, Reg.errpos, Reg.width, Reg.height, Reg.outLen, Reg.pixOut] := by
  cases r <;> decide

theorem Reg.isWritable_eq_false_iff (r : Reg) :
    r.isWritable = false ↔ r ∈ [Reg.status, Reg.errinfo, Reg.errpos, Reg.width, Reg.height, Reg.outLen,
      Reg.pixOut, Reg.capDim, Reg.capIn, Reg.capOut] := by
  cases r <;> decide

/-- A write to a read-only register is ignored (rule R24). -/
theorem writeReg_of_readOnly {r : Reg} (hr : r.isWritable = false) (v : Word) (s : State) :
    writeReg r v s = .next s := by
  cases r with
  | cmd => cases hr
  | inLen => cases hr
  | pixR => cases hr
  | pixG => cases hr
  | pixB => cases hr
  | irqEn => cases hr
  | _ => rfl

theorem step_regRead {s : State} {rest : List Event} {r : Reg}
    (h : s.script = .host (.regRead r.offset 4) :: rest) :
    step s = .next (readReg r { s with script := rest }) := by
  simp only [step_of_script_cons h, move, hostAccess, regAt_offset]

theorem step_regWrite {s : State} {rest : List Event} {r : Reg} {v : Word}
    (h : s.script = .host (.regWrite r.offset 4 v) :: rest) :
    step s = writeReg r v { s with script := rest } := by
  simp only [step_of_script_cons h, move, hostAccess, regAt_offset]

theorem readReg_of_idle_or {s : State} {r : Reg} (h : s.busy = false ∨ r.isResult = false) :
    readReg r s = { s with resp := .word (s.regValue r) } := by
  rw [readReg, if_neg]
  rcases h with h | h <;> simp [h]

theorem readReg_result_of_busy {s : State} {r : Reg} (hb : s.busy = true) (hr : r.isResult = true) :
    readReg r s = s.drawWord := by
  rw [readReg, hb, hr]
  rfl

theorem State.busy_eq_false_of_idle {s : State} (h : s.execState = .idle) : s.busy = false :=
  (State.busy_eq_false_iff s).2 ((State.execState_idle_iff s).1 h)

theorem State.unlessBusy_of_idle {s : State} (h : s.busy = false) (f : State → State) :
    s.unlessBusy f = f s := by
  rw [State.unlessBusy, h]
  rfl

/-- The script is no part of what a register holds. -/
theorem State.regValue_withScript (s : State) (rest : List Event) (r : Reg) :
    { s with script := rest }.regValue r = s.regValue r := by
  cases r <;> rfl

/-- Settles O52: `readReg` outside the free reads, and the words of the registers. -/
theorem registerReadsAnswerTheRegister : Obligations.RegisterReadsAnswerTheRegister := by
  intro s rest r h hdef
  have hread : { s with script := rest }.busy = false ∨ r.isResult = false :=
    hdef.imp State.busy_eq_false_of_idle
      fun hr => Bool.eq_false_iff.2 fun hres => hr ((Reg.isResult_iff r).1 hres)
  refine ⟨by rw [step_regRead h, readReg_of_idle_or hread, State.regValue_withScript], ?_, ?_, rfl, ?_, ?_, rfl,
    rfl, rfl, rfl, rfl, rfl, rfl, rfl, fun hp => toNat_capWords hp⟩
  · simpa only [State.regValue, State.execState_busy_iff] using s.toNat_status
  · cases hen : s.irqEn <;> simp [State.regValue, hen]
  · exact BitVec.toNat_setWidth_of_le (by decide)
  · exact BitVec.toNat_setWidth_of_le (by decide)

/-- Settles O53: a result register read while BUSY takes a draw. -/
theorem resultReadsWhileBusyAreFree : Obligations.ResultReadsWhileBusyAreFree := by
  intro s rest r h hbusy hr
  have hb : { s with script := rest }.busy = true := (State.execState_busy_iff s).1 hbusy
  rw [step_regRead h, readReg_result_of_busy hb ((Reg.isResult_iff r).2 hr)]
  rfl

/-- Settles O54: `writeReg`, register by register. -/
theorem registerWritesStoreOrAreIgnored : Obligations.RegisterWritesStoreOrAreIgnored := by
  intro s rest v r h
  rw [step_regWrite h]
  have hidle : s.execState = .idle → ∀ f : State → State,
      { s with script := rest }.unlessBusy f = f { s with script := rest } :=
    fun hi => State.unlessBusy_of_idle
      (show { s with script := rest }.busy = false from State.busy_eq_false_of_idle hi)
  refine ⟨?_, ?_, ?_, ?_, ?_, ?_⟩
  · rintro hi rfl
    rw [writeReg, hidle hi]
  · rintro hi rfl
    rw [writeReg, hidle hi]
  · rintro hi rfl
    rw [writeReg, hidle hi]
  · rintro hi rfl
    refine ⟨_, by rw [writeReg, hidle hi], fun hcap => ?_⟩
    exact toNat_ofNat_of_lt (Nat.lt_of_le_of_lt (Nat.min_le_right _ _) hcap)
  · rintro rfl
    rfl
  · intro hr
    exact writeReg_of_readOnly ((Reg.isWritable_eq_false_iff r).2 hr) v _

/-- Settles O7: offset 0 is CMD, whose write runs the decoded command. -/
theorem stepRunsTheDecodedCommand : Obligations.StepRunsTheDecodedCommand := by
  intro s w rest h
  exact ⟨decodeCommand w, rfl, wf_of_isCommand (isCommand_decodeCommand w), @step_regWrite s rest .cmd w h⟩

end Sys2Proof.Machine

/-! ## Every step keeps the form of the memories -/
namespace Sys2Proof.Machine

/-- All a step that answers a next state can do: a completion, or the next move of the script. -/
theorem step_cases {s t : State} (h : step s = .next t) :
    Completed s t ∨ ∃ e rest, s.script = e :: rest ∧ Moved { s with script := rest } t := by
  cases hscript : s.script with
  | nil =>
    rw [step_of_script_nil hscript] at h
    obtain ⟨t', ht', hc⟩ := complete_cases s
    obtain rfl : t' = t := Host.Outcome.next.inj (ht'.symm.trans h)
    exact .inl hc
  | cons e rest =>
    rw [step_of_script_cons hscript] at h
    obtain ⟨t', ht', hm⟩ | ⟨r, hr, -⟩ := move_cases e { s with script := rest }
    · obtain rfl : t' = t := Host.Outcome.next.inj (ht'.symm.trans h)
      exact .inr ⟨e, rest, rfl, hm⟩
    · cases hr.symm.trans h

/-- IN and OUT list strictly rising addresses. -/
def State.MemoriesWf (s : State) : Prop := Memory.wf s.inMem = true ∧ Memory.wf s.outMem = true

/-- Only a RUN touches a memory at its issue: it gives up OUT (20_memory.md rule R67). -/
theorem State.MemoriesWf.issued {s t : State} (h : s.MemoriesWf) {i : Instr} (ht : Issued s i t) :
    t.MemoriesWf := by
  cases ht with
  | run g hj => exact ⟨h.1, rfl⟩
  | _ => exact h

/-- Of the accesses, only a write to IN and the issue of a command touch a memory. -/
theorem State.MemoriesWf.accessed {s t : State} (h : s.MemoriesWf) (ht : Accessed s t) :
    t.MemoriesWf := by
  cases ht with
  | command hi => exact h.issued hi
  | inMem hj a ha b => exact ⟨Memory.wf_store a b h.1, h.2⟩
  | _ => exact h

/-- A completion fills OUT with a file, or leaves it empty in the failure state, or leaves it alone. -/
theorem State.MemoriesWf.completed {s t : State} (h : s.MemoriesWf) (ht : Completed s t) :
    t.MemoriesWf := by
  cases ht with
  | @file inb stage hj w hgt file hs => exact ⟨h.1, wf_cellsFrom 0 file⟩
  | failure hj hs => exact ⟨h.1, rfl⟩
  | _ => exact h

theorem State.MemoriesWf.moved {s t : State} (h : s.MemoriesWf) (ht : Moved s t) : t.MemoriesWf := by
  cases ht with
  | access ha => exact h.accessed ha
  | still => exact h
  | hidden hj hs => exact h
  | completion hc => exact h.completed hc
  | reset => exact ⟨rfl, rfl⟩

/-- Settles O5: what a step can do is `Completed` or `Moved`, and both keep the form. -/
theorem everyStepKeepsTheMemoriesInForm : Obligations.EveryStepKeepsTheMemoriesInForm := by
  intro s t hin hout ht
  have h : s.MemoriesWf := ⟨hin, hout⟩
  obtain hc | ⟨e, rest, -, hm⟩ := step_cases ht
  · exact h.completed hc
  · exact State.MemoriesWf.moved (s := { s with script := rest }) h hm

end Sys2Proof.Machine

/-! ## The accesses outside the interface are refused, and nothing else is -/
namespace Sys2Proof.Machine

theorem Reg.eq_offset_of_ofOffset {off : Nat} {r : Reg} (h : Reg.ofOffset off = some r) :
    off = r.offset := by
  unfold Reg.ofOffset at h
  split at h <;> cases h <;> rfl

/-- The registers stand at the multiples of four up to 0x3C (10_state.md rule R24). -/
theorem Reg.offset_inside (r : Reg) : r.offset % 4 = 0 ∧ r.offset ≤ 0x3C := by
  cases r <;> decide

/-- Behind a register access outside the interface stands no register (20_memory.md rule R62). -/
theorem regAt_eq_none_of_outside {off bytes : Nat} (h : ¬(bytes = 4 ∧ off % 4 = 0 ∧ off ≤ 0x3C)) :
    regAt off bytes = none := by
  unfold regAt
  split
  · next hbytes =>
    refine Option.eq_none_iff_forall_ne_some.2 fun r hr => h ⟨hbytes, ?_⟩
    exact Reg.eq_offset_of_ofOffset hr ▸ r.offset_inside
  · rfl

/-- An access outside the interface is refused under its own name (rules R60, R62, R63). -/
theorem hostAccess_of_outside {x : HostAccess} {s : State} (h : x.inside s.params = false) :
    hostAccess x s = .refused x.refusal := by
  cases x with
  | regRead off bytes =>
    simp only [hostAccess, regAt_eq_none_of_outside (of_decide_eq_false h), HostAccess.refusal]
  | regWrite off bytes v =>
    simp only [hostAccess, regAt_eq_none_of_outside (of_decide_eq_false h), HostAccess.refusal]
  | inRead a bytes => exact if_neg (Bool.eq_false_iff.1 h)
  | inWrite a bytes b => exact if_neg (Bool.eq_false_iff.1 h)
  | outRead a bytes => exact if_neg (Bool.eq_false_iff.1 h)
  | outWrite a bytes b => rfl

/-- Settles O6: an access outside the interface reaches nothing, and every other move and every completion answers
a next state. -/
theorem onlyAccessesOutsideTheInterfaceAreRefused :
    Obligations.OnlyAccessesOutsideTheInterfaceAreRefused := by
  intro s
  refine ⟨fun x rest hscript hout => ?_, fun hin => ?_⟩
  · rw [step_of_script_cons hscript]
    exact hostAccess_of_outside hout
  · cases hscript : s.script with
    | nil =>
      obtain ⟨t, ht, -⟩ := complete_cases s
      exact ⟨t, (step_of_script_nil hscript).trans ht⟩
    | cons e rest =>
      have he : e.inside s.params = true := by
        cases e with
        | host x => exact hin x rest hscript
        | _ => rfl
      obtain ⟨t, ht, -⟩ := step_of_inside hscript he
      exact ⟨t, ht⟩

end Sys2Proof.Machine

/-! ## The accesses to the memories -/
namespace Sys2Proof.Machine

theorem byteAt_of_lt {cap a : Nat} (ha : a < cap) : byteAt cap a 1 = true :=
  decide_eq_true ⟨rfl, ha⟩

theorem step_inRead {s : State} {rest : List Event} {a : Nat} (ha : a < s.params.inCap)
    (h : s.script = .host (.inRead a 1) :: rest) :
    step s = .next { s with script := rest, resp := .byte (s.inByte a) } := by
  rw [step_of_script_cons h]
  exact if_pos (byteAt_of_lt ha)

theorem step_inWrite {s : State} {rest : List Event} {a : Nat} {b : Byte} (ha : a < s.params.inCap)
    (h : s.script = .host (.inWrite a 1 b) :: rest) :
    step s = .next ({ s with script := rest }.unlessBusy
      fun s => { s with inMem := Memory.store s.inMem a b }) := by
  rw [step_of_script_cons h]
  exact if_pos (byteAt_of_lt ha)

theorem step_outRead {s : State} {rest : List Event} {a : Nat} (ha : a < s.params.outCap)
    (h : s.script = .host (.outRead a 1) :: rest) :
    step s = .next (if s.busy then { s with script := rest }.drawByte a
      else { s with script := rest, resp := .byte (s.outByte a) }) := by
  rw [step_of_script_cons h]
  exact if_pos (byteAt_of_lt ha)

theorem State.unlessBusy_of_busy {s : State} (h : s.busy = true) (f : State → State) :
    s.unlessBusy f = s.violate := by
  rw [State.unlessBusy, h]
  rfl

/-- The register writes that BUSY drops (20_memory.md rule R66). -/
theorem writeReg_of_busy {s : State} {r : Reg} (hr : r ∈ [Reg.inLen, Reg.pixR, Reg.pixG, Reg.pixB])
    (hb : s.busy = true) (v : Word) : writeReg r v s = .next s.violate := by
  simp only [List.mem_cons, List.not_mem_nil, or_false] at hr
  obtain rfl | rfl | rfl | rfl := hr <;> rw [writeReg, State.unlessBusy_of_busy hb]

/-- A write to IN sets its byte. -/
theorem State.inByte_store_same (s : State) (a : Nat) (b : Byte) :
    { s with inMem := Memory.store s.inMem a b }.inByte a = b := by
  simp [State.inByte]

/-- A write to IN leaves every other byte. -/
theorem State.inByte_store_other (s : State) {a a' : Nat} (b : Byte) (h : a' ≠ a) :
    { s with inMem := Memory.store s.inMem a b }.inByte a' = s.inByte a' := by
  simp only [State.inByte, Memory.find_store_other _ b h]

/-- Settles O55: while BUSY these writes come to `State.violate`. -/
theorem writesWhileBusyAreDropped : Obligations.WritesWhileBusyAreDropped := by
  intro s rest hbusy
  have hb : { s with script := rest }.busy = true := (State.execState_busy_iff s).1 hbusy
  refine ⟨fun v r hr h => ?_, fun a b ha h => ?_⟩
  · rw [step_regWrite h, writeReg_of_busy hr hb]
    rfl
  · rw [step_inWrite ha h, State.unlessBusy_of_busy hb]
    rfl

/-- Settles O56: a read after a write of the IN memory, at the same address and at another. -/
theorem inMemoryKeepsTheLastByteWritten : Obligations.InMemoryKeepsTheLastByteWritten := by
  intro s rest a ha
  refine ⟨fun b hidle h => ?_, fun h => step_inRead ha h⟩
  have hb : { s with script := rest }.busy = false := State.busy_eq_false_of_idle hidle
  refine ⟨_, by rw [step_inWrite ha h, State.unlessBusy_of_idle hb], rfl, ?_, fun a' hne => ?_⟩
  · exact State.inByte_store_same { s with script := rest } a b
  · exact State.inByte_store_other { s with script := rest } b hne

/-- Settles O57: BUSY decides between the byte and a draw. -/
theorem outReadsAnswerTheFileOnlyWhenIdle : Obligations.OutReadsAnswerTheFileOnlyWhenIdle := by
  intro s rest a ha h
  rw [step_outRead ha h]
  refine ⟨fun hidle => ?_, fun hbusy => ?_⟩
  · rw [if_neg (Bool.eq_false_iff.1 (State.busy_eq_false_of_idle hidle))]
  · rw [if_pos ((State.execState_busy_iff s).1 hbusy)]
    rfl

end Sys2Proof.Machine

/-! ## Command words and stream tokens are encoded and decoded

Every command word is `commandWord op g`, and every opcode from 0x04 on, like the count byte of a run, is a
leading one with free bits below it. The rows of spec/opcode_table.json are equations about these two forms. -/
namespace Sys2Proof

/-! ### A byte with a leading one -/

/-- The byte whose highest set bit is bit `k`, with `low` below it: the rows `000001xx` to `1xxxxxxx`. -/
def leadingOne (k : Nat) (low : BitVec k) : BitVec 8 := BitVec.twoPow 8 k ||| low.setWidth 8

theorem toNat_leadingOne {k : Nat} (hk : k < 8) (low : BitVec k) :
    (leadingOne k low).toNat = 2 ^ k + low.toNat := by
  have hpow : 2 ^ k < 2 ^ 8 := Nat.pow_lt_pow_right (by decide) hk
  have hlow : low.toNat % 2 ^ 8 = low.toNat := Nat.mod_eq_of_lt (Nat.lt_trans low.isLt hpow)
  rw [leadingOne, BitVec.toNat_or, BitVec.toNat_twoPow, BitVec.toNat_setWidth, Nat.mod_eq_of_lt hpow, hlow,
    show 2 ^ k + low.toNat = 2 ^ k ||| low.toNat by simpa using Nat.two_pow_add_eq_or_of_lt low.isLt 1]

theorem toNat_leadingOne_lt_iff {k : Nat} (hk : k < 8) (low : BitVec k) (j : Nat) :
    (leadingOne k low).toNat < 2 ^ j ↔ k < j := by
  have hlow := low.isLt
  rw [toNat_leadingOne hk]
  refine ⟨fun h => ?_, fun h => ?_⟩
  · exact (Nat.pow_lt_pow_iff_right (by decide)).1 (by omega : 2 ^ k < 2 ^ j)
  · have : 2 ^ (k + 1) ≤ 2 ^ j := Nat.pow_le_pow_right (by decide) h
    omega

theorem leadingOne_ne {k n : Nat} (hk : k < 8) (hn : n < 2 ^ k) (low : BitVec k) :
    leadingOne k low ≠ BitVec.ofNat 8 n := by
  intro h
  have h := congrArg BitVec.toNat h
  rw [toNat_leadingOne hk, BitVec.toNat_ofNat] at h
  have := Nat.mod_le n (2 ^ 8)
  omega

theorem extractLsb'_leadingOne {k : Nat} (hk : k < 8) (low : BitVec k) :
    (leadingOne k low).extractLsb' 0 k = low := by
  apply BitVec.eq_of_toNat_eq
  rw [BitVec.extractLsb'_toNat, toNat_leadingOne hk, Nat.shiftRight_zero, Nat.add_mod_left,
    Nat.mod_eq_of_lt low.isLt]

/-- A byte whose highest set bit is bit `k` has that form. -/
theorem leadingOne_extractLsb' {k : Nat} (hk : k < 8) {op : BitVec 8} (hlo : 2 ^ k ≤ op.toNat)
    (hhi : op.toNat < 2 ^ (k + 1)) : leadingOne k (op.extractLsb' 0 k) = op := by
  apply BitVec.eq_of_toNat_eq
  rw [toNat_leadingOne hk, BitVec.extractLsb'_toNat, Nat.shiftRight_zero, Nat.mod_eq_sub_mod hlo,
    Nat.mod_eq_of_lt (by omega), Nat.add_sub_cancel' hlo]

/-! ### Command words (30_encoding.md rules R80, R81) -/

@[simp] theorem opcode_commandWord (op : BitVec 8) (g : BitVec 24) :
    (commandWord op g).extractLsb' 0 8 = op := by
  ext i hi
  grind [commandWord]

@[simp] theorem ignored_commandWord (op : BitVec 8) (g : BitVec 24) :
    (commandWord op g).extractLsb' 8 24 = g := by
  ext i hi
  grind [commandWord]

/-- Every word is an opcode with ignored bits. -/
theorem commandWord_extractLsb' (w : Word) : commandWord (w.extractLsb' 0 8) (w.extractLsb' 8 24) = w := by
  ext i hi
  grind [commandWord]

theorem toNat_opcode (w : Word) : (w.extractLsb' 0 8).toNat = w.toNat % 256 := by
  rw [BitVec.extractLsb'_toNat, Nat.shiftRight_zero]

theorem decodeCommand_nop (g : BitVec 24) : decodeCommand (commandWord 0x00#8 g) = .nop g := by
  simp [decodeCommand]

theorem decodeCommand_run (g : BitVec 24) : decodeCommand (commandWord 0x01#8 g) = .run g := by
  simp [decodeCommand]

theorem decodeCommand_encodePixel (g : BitVec 24) :
    decodeCommand (commandWord 0x02#8 g) = .encodePixel g := by
  simp [decodeCommand]

theorem decodeCommand_clear (g : BitVec 24) : decodeCommand (commandWord 0x03#8 g) = .clear g := by
  simp [decodeCommand]

/-- An opcode from 0x04 on is told by its highest set bit: one reserved row for each (rule R115). -/
theorem decodeCommand_leadingOne {k : Nat} (hlo : 2 ≤ k) (hk : k < 8) (low : BitVec k) (g : BitVec 24) :
    decodeCommand (commandWord (leadingOne k low) g) =
      if k < 3 then .reserved0407 ((leadingOne k low).extractLsb' 0 2) g
      else if k < 4 then .reserved080F ((leadingOne k low).extractLsb' 0 3) g
      else if k < 5 then .reserved101F ((leadingOne k low).extractLsb' 0 4) g
      else if k < 6 then .reserved203F ((leadingOne k low).extractLsb' 0 5) g
      else if k < 7 then .reserved407F ((leadingOne k low).extractLsb' 0 6) g
      else .reserved80FF ((leadingOne k low).extractLsb' 0 7) g := by
  have hne : ∀ n < 4, leadingOne k low ≠ BitVec.ofNat 8 n := fun n hn =>
    leadingOne_ne hk (Nat.lt_of_lt_of_le hn (Nat.pow_le_pow_right (n := 2) (by decide) hlo)) low
  have h08 : (leadingOne k low).toNat < 0x08 ↔ k < 3 := toNat_leadingOne_lt_iff hk low 3
  have h10 : (leadingOne k low).toNat < 0x10 ↔ k < 4 := toNat_leadingOne_lt_iff hk low 4
  have h20 : (leadingOne k low).toNat < 0x20 ↔ k < 5 := toNat_leadingOne_lt_iff hk low 5
  have h40 : (leadingOne k low).toNat < 0x40 ↔ k < 6 := toNat_leadingOne_lt_iff hk low 6
  have h80 : (leadingOne k low).toNat < 0x80 ↔ k < 7 := toNat_leadingOne_lt_iff hk low 7
  simp only [decodeCommand, opcode_commandWord, ignored_commandWord, hne 0 (by decide), hne 1 (by decide),
    hne 2 (by decide), hne 3 (by decide), if_false, h08, h10, h20, h40, h80]

theorem decodeCommand_reserved0407 (low : BitVec 2) (g : BitVec 24) :
    decodeCommand (commandWord (leadingOne 2 low) g) = .reserved0407 low g := by
  simp [decodeCommand_leadingOne, extractLsb'_leadingOne]

theorem decodeCommand_reserved080F (low : BitVec 3) (g : BitVec 24) :
    decodeCommand (commandWord (leadingOne 3 low) g) = .reserved080F low g := by
  simp [decodeCommand_leadingOne, extractLsb'_leadingOne]

theorem decodeCommand_reserved101F (low : BitVec 4) (g : BitVec 24) :
    decodeCommand (commandWord (leadingOne 4 low) g) = .reserved101F low g := by
  simp [decodeCommand_leadingOne, extractLsb'_leadingOne]

theorem decodeCommand_reserved203F (low : BitVec 5) (g : BitVec 24) :
    decodeCommand (commandWord (leadingOne 5 low) g) = .reserved203F low g := by
  simp [decodeCommand_leadingOne, extractLsb'_leadingOne]

theorem decodeCommand_reserved407F (low : BitVec 6) (g : BitVec 24) :
    decodeCommand (commandWord (leadingOne 6 low) g) = .reserved407F low g := by
  simp [decodeCommand_leadingOne, extractLsb'_leadingOne]

theorem decodeCommand_reserved80FF (low : BitVec 7) (g : BitVec 24) :
    decodeCommand (commandWord (leadingOne 7 low) g) = .reserved80FF low g := by
  simp [decodeCommand_leadingOne, extractLsb'_leadingOne]

/-- A command's word decodes to it. -/
theorem decodeCommand_of_encode {i : Instr} (hi : i.isCommand = true) :
    ∃ w, encode i = .word w ∧ decodeCommand w = i := by
  cases i with
  | nop g => exact ⟨_, rfl, decodeCommand_nop g⟩
  | run g => exact ⟨_, rfl, decodeCommand_run g⟩
  | encodePixel g => exact ⟨_, rfl, decodeCommand_encodePixel g⟩
  | clear g => exact ⟨_, rfl, decodeCommand_clear g⟩
  | reserved0407 low g => exact ⟨_, rfl, decodeCommand_reserved0407 low g⟩
  | reserved080F low g => exact ⟨_, rfl, decodeCommand_reserved080F low g⟩
  | reserved101F low g => exact ⟨_, rfl, decodeCommand_reserved101F low g⟩
  | reserved203F low g => exact ⟨_, rfl, decodeCommand_reserved203F low g⟩
  | reserved407F low g => exact ⟨_, rfl, decodeCommand_reserved407F low g⟩
  | reserved80FF low g => exact ⟨_, rfl, decodeCommand_reserved80FF low g⟩
  | scanlineMarker hi lo => cases hi
  | rleRun n v => cases hi
  | rleLiteral bytes => cases hi
  | rleLiteral128 bytes => cases hi
  | flatPixel r g b e => cases hi

/-- A word with this opcode decodes to its row, whatever the ignored bits. -/
theorem decodeCommand_of_opcode {op : BitVec 8} {row : BitVec 24 → Instr}
    (hrow : ∀ g, decodeCommand (commandWord op g) = row g) {w : Word} (hw : w.toNat % 256 = op.toNat) :
    decodeCommand w = row (w.extractLsb' 8 24) := by
  have hop : w.extractLsb' 0 8 = op := BitVec.eq_of_toNat_eq ((toNat_opcode w).trans hw)
  rw [← hrow, ← hop, commandWord_extractLsb']

/-- A word whose opcode has bit `k` as its highest decodes to the reserved row of that bit. -/
theorem decodeCommand_of_opcode_range {k : Nat} (hk : k < 8) {row : BitVec k → BitVec 24 → Instr}
    (hrow : ∀ low g, decodeCommand (commandWord (leadingOne k low) g) = row low g) {w : Word}
    (hlo : 2 ^ k ≤ w.toNat % 256) (hhi : w.toNat % 256 ≤ 2 ^ (k + 1) - 1) :
    ∃ low g, decodeCommand w = row low g := by
  rw [← toNat_opcode] at hlo hhi
  have hlt := Nat.lt_of_le_sub_one (Nat.two_pow_pos (k + 1)) hhi
  refine ⟨(w.extractLsb' 0 8).extractLsb' 0 k, w.extractLsb' 8 24, ?_⟩
  rw [← hrow, leadingOne_extractLsb' hk hlo hlt, commandWord_extractLsb']

/-- Settles O10: an opcode is one of the four commands, or is told by its highest set bit. -/
theorem commandWordsDecodeByTheirLowByte : Obligations.CommandWordsDecodeByTheirLowByte := by
  intro w
  have hmax : w.toNat % 256 ≤ 255 := Nat.le_of_lt_succ (Nat.mod_lt _ (by decide))
  exact ⟨decodeCommand_of_opcode decodeCommand_nop, decodeCommand_of_opcode decodeCommand_run,
    decodeCommand_of_opcode decodeCommand_encodePixel, decodeCommand_of_opcode decodeCommand_clear,
    decodeCommand_of_opcode_range (by decide) decodeCommand_reserved0407,
    decodeCommand_of_opcode_range (by decide) decodeCommand_reserved080F,
    decodeCommand_of_opcode_range (by decide) decodeCommand_reserved101F,
    decodeCommand_of_opcode_range (by decide) decodeCommand_reserved203F,
    decodeCommand_of_opcode_range (by decide) decodeCommand_reserved407F,
    fun hlo => decodeCommand_of_opcode_range (by decide) decodeCommand_reserved80FF hlo hmax⟩

/-- The opcodes: the four commands, and for each higher leading bit a reserved row. -/
theorem opcode_cases (op : BitVec 8) :
    op = 0x00#8 ∨ op = 0x01#8 ∨ op = 0x02#8 ∨ op = 0x03#8 ∨
    ∃ k, 2 ≤ k ∧ k < 8 ∧ ∃ low, op = leadingOne k low := by
  by_cases hop : op.toNat < 4
  · obtain h | h | h | h : op.toNat = 0 ∨ op.toNat = 1 ∨ op.toNat = 2 ∨ op.toNat = 3 := by omega
    · exact .inl (BitVec.eq_of_toNat_eq h)
    · exact .inr (.inl (BitVec.eq_of_toNat_eq h))
    · exact .inr (.inr (.inl (BitVec.eq_of_toNat_eq h)))
    · exact .inr (.inr (.inr (.inl (BitVec.eq_of_toNat_eq h))))
  · have hne : op.toNat ≠ 0 := by omega
    have hlo : 2 ≤ op.toNat.log2 := (Nat.le_log2 hne).2 (by omega)
    have hk : op.toNat.log2 < 8 := (Nat.log2_lt hne).2 op.isLt
    exact .inr (.inr (.inr (.inr ⟨_, hlo, hk, _,
      (leadingOne_extractLsb' hk (Nat.log2_self_le hne) Nat.lt_log2_self).symm⟩)))

/-- Every word is the word of a command. -/
theorem exists_encode_eq_word (w : Word) : ∃ i : Instr, i.isCommand = true ∧ encode i = .word w := by
  rw [← commandWord_extractLsb' w]
  generalize w.extractLsb' 8 24 = g
  obtain h | h | h | h | ⟨k, hlo, hk, low, h⟩ := opcode_cases (w.extractLsb' 0 8) <;> rw [h]
  · exact ⟨.nop g, rfl, rfl⟩
  · exact ⟨.run g, rfl, rfl⟩
  · exact ⟨.encodePixel g, rfl, rfl⟩
  · exact ⟨.clear g, rfl, rfl⟩
  · clear h
    obtain rfl | rfl | rfl | rfl | rfl | rfl : k = 2 ∨ k = 3 ∨ k = 4 ∨ k = 5 ∨ k = 6 ∨ k = 7 := by omega
    · exact ⟨.reserved0407 low g, rfl, rfl⟩
    · exact ⟨.reserved080F low g, rfl, rfl⟩
    · exact ⟨.reserved101F low g, rfl, rfl⟩
    · exact ⟨.reserved203F low g, rfl, rfl⟩
    · exact ⟨.reserved407F low g, rfl, rfl⟩
    · exact ⟨.reserved80FF low g, rfl, rfl⟩

/-- Settles O11: decode undoes encode on the commands, and every word is the word of a command. -/
theorem commandDecodeAndEncodeAgree : Obligations.CommandDecodeAndEncodeAgree := by
  refine ⟨fun i hi => ?_, fun w => ⟨Machine.isCommand_decodeCommand w, ?_⟩⟩
  · obtain ⟨w, henc, hdec⟩ := decodeCommand_of_encode hi
    exact ⟨w, henc, congrArg Except.ok hdec⟩
  · obtain ⟨i, hi, hiw⟩ := exists_encode_eq_word w
    obtain ⟨w', henc, hdec⟩ := decodeCommand_of_encode hi
    cases hiw.symm.trans henc
    rw [hdec, hiw]

/-! ### Stream tokens (rules R86 to R88) -/

theorem decodePacket_run {c : Byte} (hc : 128 < c.toNat) (v : Byte) (rest : List Byte) :
    decodePacket (c :: v :: rest) = .ok (.rleRun (c.extractLsb' 0 7) v) := by
  simp only [decodePacket, if_pos hc]

theorem decodePacket_shortRun {c : Byte} (hc : 128 < c.toNat) :
    decodePacket [c] = .error (.shortRun (c.toNat - 128)) := by
  simp only [decodePacket, if_pos hc]

theorem decodePacket_shortLiteral {c : Byte} {rest : List Byte} (hc : c.toNat ≤ 128)
    (hrest : rest.length < c.toNat) : decodePacket (c :: rest) = .error (.shortLiteral c.toNat) := by
  have hshort : (rest.take c.toNat).length < c.toNat := Nat.lt_of_le_of_lt (List.length_take_le' _ _) hrest
  simp only [decodePacket, if_neg (Nat.not_lt.2 hc), if_pos hshort]

theorem decodePacket_literal {c : Byte} {rest : List Byte} (hc : c.toNat < 128)
    (hrest : c.toNat ≤ rest.length) : decodePacket (c :: rest) = .ok (.rleLiteral (rest.take c.toNat)) := by
  have hrun : ¬128 < c.toNat := Nat.lt_asymm hc
  have hwhole : ¬(rest.take c.toNat).length < c.toNat := by
    rw [List.length_take_of_le hrest]
    exact Nat.lt_irrefl _
  simp only [decodePacket, if_neg hrun, if_neg hwhole, if_neg (Nat.ne_of_lt hc)]

theorem decodePacket_literal128 {rest : List Byte} (hrest : 128 ≤ rest.length) :
    decodePacket (0x80#8 :: rest) = .ok (.rleLiteral128 (rest.take 128)) := by
  simp [decodePacket, hrest]

theorem decodeRowStart_marker (h : BitVec 7) (l : Byte) (rest : List Byte) :
    decodeRowStart true (0x02#8 :: 0x02#8 :: h.setWidth 8 :: l :: rest) = .ok (.scanlineMarker h l) := by
  have htop : (h.setWidth 8).toNat < 128 := by
    rw [BitVec.toNat_setWidth_of_le (by decide)]
    exact h.isLt
  have hlow : (h.setWidth 8).extractLsb' 0 7 = h := by
    ext i hi
    grind
  rw [decodeRowStart, if_pos ⟨rfl, rfl, rfl, htop⟩, hlow]

theorem decodeRowStart_pixel {eligible : Bool} (r g b e : Byte) (rest : List Byte)
    (hp : ¬(eligible = true ∧ r = 0x02#8 ∧ g = 0x02#8 ∧ b.toNat < 128)) :
    decodeRowStart eligible (r :: g :: b :: e :: rest) = .ok (.flatPixel r g b e) := by
  rw [decodeRowStart, if_neg hp]

/-- The count byte of a run of `n` is above 128. -/
theorem lt_toNat_leadingOne_seven {n : BitVec 7} (hn : n ≠ 0#7) : 128 < (leadingOne 7 n).toNat := by
  have hpos : n.toNat ≠ 0 := fun h => hn (BitVec.eq_of_toNat_eq h)
  rw [toNat_leadingOne (by decide)]
  omega

/-- A well-formed packet decodes from its bytes. -/
theorem decodePacket_encode {i : Instr} (hp : i.isPacket = true) (hwf : i.wf = true) :
    ∃ bs, encode i = .bytes bs ∧ bs.length = i.size ∧ ∀ tail, decodePacket (bs ++ tail) = .ok i := by
  cases i with
  | rleRun n v =>
    have hn : n ≠ 0#7 := of_decide_eq_true hwf
    refine ⟨[leadingOne 7 n, v], rfl, rfl, fun tail => ?_⟩
    exact (decodePacket_run (lt_toNat_leadingOne_seven hn) v tail).trans
      (by rw [extractLsb'_leadingOne (by decide)])
  | rleLiteral bytes =>
    have hlen : bytes.length ≤ 127 := of_decide_eq_true hwf
    have hc : (BitVec.ofNat 8 bytes.length).toNat = bytes.length := Machine.toNat_ofNat_of_lt (by omega)
    refine ⟨_, rfl, Nat.add_comm _ 1, fun tail => ?_⟩
    rw [List.cons_append, decodePacket_literal (by omega) (by simp [hc]), hc, List.take_left]
  | rleLiteral128 bytes =>
    have hlen : bytes.length = 128 := of_decide_eq_true hwf
    refine ⟨_, rfl, Nat.add_comm _ 1, fun tail => ?_⟩
    rw [List.cons_append, decodePacket_literal128 (by simp [hlen]), ← hlen, List.take_left]
  | _ => cases hp

/-- Settles O12: a packet by `decodePacket_encode`, the marker and the flat pixel where each is read. -/
theorem tokenDecodeAndEncodeAgree : Obligations.TokenDecodeAndEncodeAgree := by
  intro i tail hwf hi
  by_cases hp : i.isPacket = true
  · obtain ⟨bs, henc, hlen, hdec⟩ := decodePacket_encode hp hwf
    refine ⟨bs, henc, hlen, fun _ => hdec tail, ?_, ?_⟩
    · rintro h l rfl
      cases hp
    · rintro r g b e rfl
      cases hp
  · cases i with
    | scanlineMarker h l => exact ⟨_, rfl, rfl, nofun, fun _ _ _ => decodeRowStart_marker h l tail, nofun⟩
    | flatPixel r g b e =>
      refine ⟨_, rfl, rfl, nofun, nofun, fun r' g' b' e' heq => ?_⟩
      cases heq
      exact ⟨rfl, decodeRowStart_pixel r g b e tail (eligible := false) nofun,
        fun hm => decodeRowStart_pixel r g b e tail fun h => hm h.2⟩
    | rleRun | rleLiteral | rleLiteral128 => exact absurd rfl hp
    | _ => cases hi

/-- A count byte above 128 and a value byte are a well-formed run (rule R87). -/
theorem decodePacket_reads_run {c v : Byte} (hc : 128 < c.toNat) (rest : List Byte) :
    ∃ i, decodePacket (c :: v :: rest) = .ok i ∧ i.wf = true ∧ i.isPacket = true ∧ i.size = 2 ∧
      encode i = .bytes [c, v] ∧ Machine.packetValues i = List.replicate (c.toNat - 128) v := by
  have hc256 := c.isLt
  have hn : (c.extractLsb' 0 7).toNat = c.toNat - 128 := by
    rw [BitVec.extractLsb'_toNat, Nat.shiftRight_zero]
    omega
  have hne : c.extractLsb' 0 7 ≠ 0#7 := by
    rw [Ne, ← BitVec.toNat_inj, hn, BitVec.toNat_ofNat]
    omega
  have hcount : leadingOne 7 (c.extractLsb' 0 7) = c := leadingOne_extractLsb' (by decide) (Nat.le_of_lt hc) hc256
  exact ⟨_, decodePacket_run hc v rest, decide_eq_true hne, rfl, rfl,
    congrArg (fun op => Encoded.bytes [op, v]) hcount, congrArg (List.replicate · v) hn⟩

/-- A count byte of at most 128 and as many bytes are a well-formed literal (rule R87). -/
theorem decodePacket_reads_literal {c : Byte} {rest : List Byte} (hc : c.toNat ≤ 128)
    (hrest : c.toNat ≤ rest.length) :
    ∃ i, decodePacket (c :: rest) = .ok i ∧ i.wf = true ∧ i.isPacket = true ∧ i.size = 1 + c.toNat ∧
      encode i = .bytes (c :: rest.take c.toNat) ∧ Machine.packetValues i = rest.take c.toNat := by
  have hlen : (rest.take c.toNat).length = c.toNat := List.length_take_of_le hrest
  rcases Nat.lt_or_eq_of_le hc with hlt | heq
  · refine ⟨_, decodePacket_literal hlt hrest, decide_eq_true (by omega), rfl, congrArg (1 + ·) hlen,
      ?_, rfl⟩
    rw [encode, hlen, BitVec.ofNat_toNat, BitVec.setWidth_eq]
  · obtain rfl : c = 0x80#8 := BitVec.eq_of_toNat_eq heq
    exact ⟨_, decodePacket_literal128 hrest, decide_eq_true hlen, rfl, congrArg (1 + ·) hlen, rfl, rfl⟩

/-- Settles O13: the count byte decides between a run and a literal. -/
theorem packetsAreReadByTheirCountByte : Obligations.PacketsAreReadByTheirCountByte := by
  refine ⟨rfl, fun c rest => ⟨?_, decodePacket_shortLiteral, fun hlen => ?_⟩⟩
  · rintro hc rfl
    exact decodePacket_shortRun hc
  · rcases Nat.lt_or_ge 128 c.toNat with hc | hc
    · rw [if_pos hc] at hlen ⊢
      obtain ⟨v, rest, rfl⟩ := List.exists_cons_of_length_pos (l := rest) (by omega)
      obtain ⟨i, hdec, hwf, hp, hsize, henc, hval⟩ := decodePacket_reads_run (v := v) hc rest
      refine ⟨i, hdec, hwf, hp, hsize, hsize ▸ henc, ?_⟩
      rw [hval, List.length_replicate, if_pos hc]
    · rw [if_neg (Nat.not_lt.2 hc)] at hlen ⊢
      have hrest : c.toNat ≤ rest.length := Nat.le_of_add_le_add_left hlen
      obtain ⟨i, hdec, hwf, hp, hsize, henc, hval⟩ := decodePacket_reads_literal hc hrest
      refine ⟨i, hdec, hwf, hp, hsize, ?_, ?_⟩
      · rw [henc, hsize, Nat.add_comm, List.take_succ_cons]
      · rw [hval, List.length_take_of_le hrest, if_neg (Nat.not_lt.2 hc)]

/-- Settles O14: each word and byte sequence is decoded by evaluation. -/
theorem sampleEncodingsDecodeToTheirRows : Obligations.SampleEncodingsDecodeToTheirRows := by
  exact ⟨rfl, rfl, rfl, rfl, rfl, rfl⟩

end Sys2Proof

/-! ## The resolution line and the file header are read and written as the grammar and the table say -/
namespace Sys2Proof.Machine

/-! ### The resolution line (30_encoding.md rule R84) -/

theorem lineOf_append {line : List Byte} (hline : lineFeed ∉ line) (rest : List Byte) :
    lineOf (line ++ lineFeed :: rest) = some line := by
  induction line with
  | nil => rfl
  | cons b line ih =>
    obtain ⟨hb, hline⟩ := not_or.1 (mt List.mem_cons.2 hline)
    rw [List.cons_append, lineOf, if_neg (Ne.symm hb), ih hline, Option.map_some]

theorem signOf_cases {b : Byte} {sign : AxisSign} (h : signOf b = some sign) :
    (b = 0x2B#8 ∧ sign = .plus) ∨ (b = 0x2D#8 ∧ sign = .minus) := by
  unfold signOf at h
  split at h
  · next hplus => exact .inl ⟨hplus, (Option.some.inj h).symm⟩
  · split at h
    · next hminus => exact .inr ⟨hminus, (Option.some.inj h).symm⟩
    · cases h

theorem letterOf_cases {b : Byte} {letter : AxisLetter} (h : letterOf b = some letter) :
    (b = 0x58#8 ∧ letter = .x) ∨ (b = 0x59#8 ∧ letter = .y) := by
  unfold letterOf at h
  split at h
  · next hx => exact .inl ⟨hx, (Option.some.inj h).symm⟩
  · split at h
    · next hy => exact .inr ⟨hy, (Option.some.inj h).symm⟩
    · cases h

theorem Axis.bytes_of_signOf_letterOf {b c : Byte} {sign : AxisSign} {letter : AxisLetter}
    (hs : signOf b = some sign) (hl : letterOf c = some letter) : Axis.bytes ⟨sign, letter⟩ = [b, c] := by
  obtain ⟨rfl, rfl⟩ | ⟨rfl, rfl⟩ := signOf_cases hs <;>
    obtain ⟨rfl, rfl⟩ | ⟨rfl, rfl⟩ := letterOf_cases hl <;> rfl

theorem eq_append_of_takeAxis {bs rest : List Byte} {a : Axis} (h : takeAxis bs = some (a, rest)) :
    bs = a.bytes ++ rest := by
  unfold takeAxis at h
  split at h
  · split at h
    · next hs hl =>
      cases h
      rw [Axis.bytes_of_signOf_letterOf hs hl]
      rfl
    · cases h
  · cases h

theorem eq_cons_of_takeSpace {bs rest : List Byte} (h : takeSpace bs = some rest) : bs = 0x20#8 :: rest := by
  cases bs with
  | nil => cases h
  | cons b bs =>
    rw [takeSpace] at h
    split at h
    · next hb => cases h; rw [hb]
    · cases h

theorem eq_append_of_takeNumber {bs rest : List Byte} {n : Nat} (h : takeNumber bs = some (n, rest)) :
    ∃ ds, IsNumber ds ∧ bs = ds ++ rest := by
  unfold takeNumber at h
  split at h
  · cases h
  · next hne =>
    cases h
    exact ⟨bs.takeWhile isDigit, ⟨hne, List.all_eq_true.1 List.all_takeWhile⟩,
      List.takeWhile_append_dropWhile.symm⟩

theorem eq_append_of_takeAxisNumber {bs rest : List Byte} {a : Axis} {n : Nat}
    (h : takeAxisNumber bs = some (a, n, rest)) :
    ∃ ds, IsNumber ds ∧ bs = a.bytes ++ 0x20#8 :: ds ++ rest := by
  simp only [takeAxisNumber, Option.bind_eq_some_iff, Option.map_eq_some_iff, Prod.exists] at h
  obtain ⟨a', bs₁, haxis, bs₂, hspace, n', rest', hnum, heq⟩ := h
  cases heq
  obtain ⟨ds, hds, rfl⟩ := eq_append_of_takeNumber hnum
  refine ⟨ds, hds, ?_⟩
  rw [eq_append_of_takeAxis haxis, eq_cons_of_takeSpace hspace, List.append_assoc, List.cons_append]

/-- A line that the parser accepts is of the grammar, with two different letters. -/
theorem grammar_of_parseResLine {line : List Byte} {l : ResLine} (h : parseResLine line = some l) :
    ∃ (a1 a2 : Axis) (d1 d2 : List Byte), IsNumber d1 ∧ IsNumber d2 ∧ a1.letter ≠ a2.letter ∧
      line = resolutionLine a1 d1 a2 d2 := by
  simp only [parseResLine, Option.bind_eq_some_iff, Prod.exists, Option.ite_none_right_eq_some] at h
  obtain ⟨a1, n1, bs₁, h1, bs₂, hspace, a2, n2, bs₃, h2, ⟨rfl, hletter⟩, -⟩ := h
  obtain ⟨d1, hd1, rfl⟩ := eq_append_of_takeAxisNumber h1
  obtain ⟨d2, hd2, rfl⟩ := eq_append_of_takeAxisNumber h2
  refine ⟨a1, a2, d1, d2, hd1, hd2, hletter, ?_⟩
  simp [resolutionLine, eq_cons_of_takeSpace hspace]

/-- Settles O28: the parser accepts only lines of the grammar. -/
theorem onlyLinesOfTheGrammarAreWellFormed : Obligations.OnlyLinesOfTheGrammarAreWellFormed := by
  intro p inb line rest s hdrop hline hgrammar
  have hparse : parseResLine line = none :=
    Option.eq_none_iff_forall_ne_some.2 fun l h => hgrammar (grammar_of_parseResLine h)
  simp only [parseResolution, hdrop, lineOf_append hline, hparse]

/-! ### The header of the file (rule R92) -/

theorem toNat_littleEndian16 {n : Nat} (hn : n < 65536) :
    (littleEndian16 n).map BitVec.toNat = [n % 256, n / 256] := by
  have hhigh : n / 256 < 2 ^ 8 := by omega
  simp only [littleEndian16, List.map_cons, List.map_nil, BitVec.toNat_ofNat, Nat.mod_eq_of_lt hhigh]

/-- Settles O48: W and H are the two fields that are no constants. -/
theorem tgaHeaderHasTheTableOfRuleR92 : Obligations.TgaHeaderHasTheTableOfRuleR92 := by
  intro w h hw hh
  simp only [tgaHeader, List.map_append, toNat_littleEndian16 hw, toNat_littleEndian16 hh,
    toNat_littleEndian16 (n := 0) (by decide)]
  rfl

end Sys2Proof.Machine

/-! ## The commands at their issue, and the completion of a RUN whose file is ready -/
namespace Sys2Proof.Machine

/-- Every command is an effect under the issue rule (40_commands.md rule R110). -/
theorem exec_command_eq_issue {i : Instr} (hi : i.isCommand = true) (s : State) :
    ∃ effect, exec i s = s.issue effect := by
  cases i with
  | nop g => exact ⟨_, exec_nop g s⟩
  | run g => exact ⟨_, exec_run g s⟩
  | encodePixel g => exact ⟨_, exec_encodePixel g s⟩
  | clear g => exact ⟨_, exec_clear g s⟩
  | reserved0407 x g => exact ⟨_, exec_reserved0407 x g s⟩
  | reserved080F x g => exact ⟨_, exec_reserved080F x g s⟩
  | reserved101F x g => exact ⟨_, exec_reserved101F x g s⟩
  | reserved203F x g => exact ⟨_, exec_reserved203F x g s⟩
  | reserved407F x g => exact ⟨_, exec_reserved407F x g s⟩
  | reserved80FF x g => exact ⟨_, exec_reserved80FF x g s⟩
  | scanlineMarker hi lo => cases hi
  | rleRun n v => cases hi
  | rleLiteral bytes => cases hi
  | rleLiteral128 bytes => cases hi
  | flatPixel r g b e => cases hi

/-- Settles O15: in IDLE the issue of a NOP has no effect. -/
theorem nopChangesNothing : Obligations.NopChangesNothing := by
  intro s g hidle
  rw [exec_nop, State.issue_of_idle (State.busy_eq_false_of_idle hidle)]

/-- The state that the issue of a RUN leads to in IDLE (40_commands.md rule R111). -/
def State.issueRun (s : State) : State :=
  { s.acknowledge with
    width := 0#16, height := 0#16, outLen := 0#32, outMem := [], outSeed := s.draws
    draws := s.draws + 1, job := some (.run s.captureIn .header) }

theorem exec_run_of_idle {s : State} (hidle : s.execState = .idle) (g : BitVec 24) :
    exec (.run g) s = .next s.issueRun :=
  (exec_run g s).trans (State.issue_of_idle (State.busy_eq_false_of_idle hidle) _)

/-- Settles O16: the state `State.issueRun`, field by field. -/
theorem runIssueCapturesItsInputAndClearsItsResults :
    Obligations.RunIssueCapturesItsInputAndClearsItsResults :=
  fun _ g hidle => exec_run_of_idle hidle g

/-- Settles O17: in IDLE the effect of an ENCODE_PIXEL is its captured words and a cleared report. -/
theorem encodePixelIssueCapturesTheThreeWords : Obligations.EncodePixelIssueCapturesTheThreeWords := by
  intro s g hidle
  rw [exec_encodePixel, State.issue_of_idle (State.busy_eq_false_of_idle hidle)]
  rfl

/-- A block that is idle with no bit of its report set reads STATUS 0 (10_state.md rule R26). -/
theorem State.status_eq_zero {s : State} (hb : s.busy = false) (hd : s.done = false)
    (he : s.err = false) (hv : s.viol = false) : s.status = 0#32 := by
  apply BitVec.eq_of_toNat_eq
  simp [State.toNat_status, hb, hd, he, hv]

/-- Settles O18: in IDLE the effect of a CLEAR is the acknowledgement, with VIOL cleared too. -/
theorem clearAcknowledgesAndKeepsResults : Obligations.ClearAcknowledgesAndKeepsResults := by
  intro s g hidle
  have hb := State.busy_eq_false_of_idle hidle
  have hirq : { s.acknowledge with viol := false }.irq = false := by simp [State.irq]
  exact ⟨_, (exec_clear g s).trans (State.issue_of_idle hb _), rfl, hidle, hirq,
    State.status_eq_zero hb rfl rfl rfl⟩

/-- Settles O19: the effect of each of the six reserved rows is `State.violate`. -/
theorem reservedOpcodesOnlySetViol : Obligations.ReservedOpcodesOnlySetViol := by
  intro s g hidle
  have hviolate : s.issue State.violate = .next { s with viol := true } :=
    State.issue_of_idle (State.busy_eq_false_of_idle hidle) _
  exact ⟨fun _ => hviolate, fun _ => hviolate, fun _ => hviolate, fun _ => hviolate, fun _ => hviolate,
    fun _ => hviolate⟩

/-- Settles O20: while BUSY the issue rule drops the effect, whichever it is. -/
theorem commandsWhileBusyAreDropped : Obligations.CommandsWhileBusyAreDropped := by
  intro s i hi hbusy
  obtain ⟨effect, he⟩ := exec_command_eq_issue hi s
  rw [he, State.issue_of_busy ((State.execState_busy_iff s).1 hbusy)]
  rfl

/-- A RUN with no hidden step left is completed by publishing it. -/
theorem complete_run_of_tick_self {s : State} {inb : List Byte} {stage : RunStage}
    (hj : s.job = some (.run inb stage)) (ht : tick s = .next s) : complete s = publish s :=
  complete_run_of_settle hj (settle_of_tick_self ht _)

theorem complete_written {s : State} {inb : List Byte} {w h : Nat} {file : List Byte}
    (hj : s.job = some (.run inb (.written w h file))) : complete s = .next (s.publishFile w h file) := by
  rw [complete_run_of_tick_self hj (by simp only [tick, hj])]
  simp only [publish, hj]

theorem complete_failed {s : State} {inb : List Byte} {dims : Option (Nat × Nat)} {why : Failure}
    (hj : s.job = some (.run inb (.failed dims why))) : complete s = .next (s.fail dims why) := by
  rw [complete_run_of_tick_self hj (by simp only [tick, hj])]
  simp only [publish, hj]

/-- OUT answers the published file, and above it the draw it had before (20_memory.md rule R67; log 4). -/
theorem State.outByte_publishFile (s : State) (w h : Nat) (file : List Byte) (a : Nat) :
    (s.publishFile w h file).outByte a = (file[a]?).getD (Config.freeByte s.outSeed a) := by
  rw [State.outByte, State.publishFile_outMem, State.publishFile_outSeed, ← find_cellsFrom 0 file a,
    Nat.zero_add]

/-- Settles O25: the completion is `State.publishFile`, whose OUT reads back the file. -/
theorem successfulRunPublishesItsFile : Obligations.SuccessfulRunPublishesItsFile :=
  fun s _ w h file hj => ⟨_, complete_written hj, rfl, State.outByte_publishFile s w h file⟩

end Sys2Proof.Machine

/-! ## The file of an image is written whatever the workers and the stride -/
namespace Sys2Proof.Machine

/-- What a RUN whose image is decoded reports of it (43_pipeline_tga.md rules R176, R177). -/
def imageResult (p : Params) (img : HdrImage) : Except Failure (List Byte) :=
  if p.outCap < tgaSize img.w img.h then .error ⟨.outCapacity, 0⟩ else .ok (imageFile p.tie img)

/-- The rows of a raster, one after the other, are its pixels (10_state.md rule R40). -/
theorem flatMap_rasterRow (w h : Nat) (raster : List Rgb) :
    (List.range h).flatMap (rasterRow w raster) = raster.take (h * w) := by
  induction h with
  | zero => simp
  | succ h ih =>
    rw [List.range_succ, List.flatMap_append, ih, List.flatMap_singleton, rasterRow, Nat.succ_mul,
      List.take_add]

/-- Of blocks of `n` elements, the one numbered `y`. -/
theorem take_drop_flatMap_range {α : Type} {f : Nat → List α} {n h y : Nat}
    (hf : ∀ i < h, (f i).length = n) (hy : y < h) :
    (((List.range h).flatMap f).drop (y * n)).take n = f y := by
  obtain ⟨k, rfl⟩ := Nat.exists_eq_add_of_lt hy
  have hbefore : ((List.range y).flatMap f).length = y * n := by
    rw [length_flatMap_of_length_eq fun i hi => hf i (by have := List.mem_range.1 hi; omega),
      List.length_range]
  rw [Nat.add_right_comm, List.range_add, List.range_succ, List.flatMap_append, List.flatMap_append,
    List.append_assoc, List.drop_left' hbefore, List.flatMap_singleton, List.take_left' (hf y hy)]

/-- A row of the packed raster without its padding (43_pipeline_tga.md rule R171). -/
theorem take_packedRow (p : Params) (seed : Nat) {w h y : Nat} (stride : Nat) {raster : List Rgb}
    (hr : raster.length = w * h) (hy : y < h) :
    (packedRow p seed w stride raster y).take (4 * w) =
      (rasterRow w raster y).flatMap (pixelBytes p.tie) := by
  refine List.take_left' ?_
  rw [length_flatMap_of_length_eq fun c _ => length_pixelBytes p.tie c, length_rasterRow hr hy,
    Nat.mul_comm]

/-- The writer finds row `y` of the packed raster at its place, and skips the padding (rule R175). -/
theorem row_of_pixelApply {p : Params} (hp : p.Legal) (seed : Nat) {img : HdrImage} {y : Nat}
    (hr : img.raster.length = img.w * img.h) (hy : y < img.h) :
    ((pixelApply p seed img).bytes.drop (y * (pixelApply p seed img).stride)).take (4 * img.w) =
      (rasterRow img.w img.raster y).flatMap (pixelBytes p.tie) := by
  obtain ⟨-, -, -, -, ⟨halign, -⟩, hworkers⟩ := hp
  have hstride : 4 * img.w ≤ alignUp (4 * img.w) p.strideAlign := le_alignUp _ (by omega)
  have hrow := take_drop_flatMap_range (fun i hi => length_packedRow p seed hr hi hstride) hy
  simp only [pixelApply, allWorkerRows_eq hworkers]
  rw [← take_packedRow p seed (alignUp (4 * img.w) p.strideAlign) hr hy, ← hrow, List.take_take,
    Nat.min_eq_left hstride]

/-- The pixel pipeline and the writer give the image's file, or no file (rules R170, R175 to R177;
60_exceptions.md rule R214). -/
theorem tgaWrite_pixelApply {p : Params} (hp : p.Legal) (seed : Nat) {img : HdrImage}
    (hr : img.raster.length = img.w * img.h) :
    tgaWrite p (pixelApply p seed img) = imageResult p img := by
  have hrow := fun y (hy : y ∈ List.range img.h) => row_of_pixelApply hp seed hr (List.mem_range.1 hy)
  have hrows : (List.range img.h).flatMap (fun y =>
      ((pixelApply p seed img).bytes.drop (y * (pixelApply p seed img).stride)).take (4 * img.w)) =
      img.raster.flatMap (pixelBytes p.tie) := by
    rw [List.flatMap_def, List.map_congr_left hrow, ← List.flatMap_def, ← List.flatMap_assoc,
      flatMap_rasterRow, Nat.mul_comm, ← hr, List.take_length]
  rw [imageResult, imageFile, ← hrows]
  rfl

end Sys2Proof.Machine

/-! ## The decoder's tokens and the functions of the pseudocode agree

`Seq.decodeRow` is what the functions of 41_rgbe_decoder.md rules R129 to R136 make of the rest of a scanline
that the sequencer has begun, and `RunStage.result` what a RUN at this stage comes to report. Every hidden step
keeps the result. -/
namespace Sys2Proof.Machine

/-! ### One plane (rules R132 to R134) -/

/-- A plane that holds `out` already: `decode_plane` from the cursor `p` on. -/
def decodePlaneFrom (inb : List Byte) (w p : Nat) (out : List Byte) : Except Failure (List Byte × Nat) :=
  decodePlaneLoop inb w (inb.length + 1) p out

/-- One round more than the bytes from the cursor on changes nothing (rule R141). -/
theorem decodePlaneLoop_succ_rounds (inb : List Byte) (w : Nat) {rounds p : Nat} (out : List Byte)
    (h : inb.length ≤ p + rounds) :
    decodePlaneLoop inb w (rounds + 2) p out = decodePlaneLoop inb w (rounds + 1) p out := by
  induction rounds generalizing p out with
  | zero =>
    have hend : inb[p]? = none := List.getElem?_eq_none h
    simp only [decodePlaneLoop, hend]
  | succ rounds ih =>
    have hrun : ∀ out', decodePlaneLoop inb w (rounds + 2) (p + 2) out' =
        decodePlaneLoop inb w (rounds + 1) (p + 2) out' := fun out' => ih out' (by omega)
    have hliteral : ∀ n out', decodePlaneLoop inb w (rounds + 2) (p + 1 + n) out' =
        decodePlaneLoop inb w (rounds + 1) (p + 1 + n) out' := fun n out' => ih out' (by omega)
    rw [decodePlaneLoop, decodePlaneLoop]
    simp only [hrun, hliteral]

theorem length_of_drop_eq_cons {α : Type} {l rest : List α} {a : α} {p : Nat} (h : l.drop p = a :: rest) :
    l.length = p + 1 + rest.length := by
  have hlen := congrArg List.length h
  rw [List.length_drop, List.length_cons] at hlen
  omega

section
variable {inb rest : List Byte} {w p : Nat} {out : List Byte} {c : Byte}

theorem decodePlaneFrom_full (h : w ≤ out.length) : decodePlaneFrom inb w p out = .ok (out, p) := by
  rw [decodePlaneFrom, decodePlaneLoop, if_pos h]

theorem decodePlaneFrom_end (hout : out.length < w) (hd : inb.drop p = []) :
    decodePlaneFrom inb w p out = .error ⟨.eofRle, inb.length⟩ := by
  have hend : inb[p]? = none := List.getElem?_eq_none (List.drop_eq_nil_iff.1 hd)
  rw [decodePlaneFrom, decodePlaneLoop, if_neg (Nat.not_le.2 hout), hend]

/-- The rounds left behind a packet are as good as all of them. -/
theorem decodePlaneLoop_length (n : Nat) (out : List Byte) (hd : inb.drop p = c :: rest) :
    decodePlaneLoop inb w inb.length (p + 1 + n) out = decodePlaneFrom inb w (p + 1 + n) out := by
  have hlen := length_of_drop_eq_cons hd
  rw [decodePlaneFrom, show inb.length = p + rest.length + 1 by omega]
  exact (decodePlaneLoop_succ_rounds inb w out (by omega)).symm

/-- A count byte above 128 is a run: the overrun test, then the value byte (rule R133). -/
theorem decodePlaneFrom_run (hout : out.length < w) (hd : inb.drop p = c :: rest) (hc : 128 < c.toNat) :
    decodePlaneFrom inb w p out =
      if w < out.length + (c.toNat - 128) then .error ⟨.rleOverrun, p⟩
      else rest.head?.elim (.error ⟨.eofRle, inb.length⟩)
        fun v => decodePlaneFrom inb w (p + 2) (out ++ List.replicate (c.toNat - 128) v) := by
  have hcount : inb[p]? = some c := by rw [← Nat.add_zero p, ← List.getElem?_drop, hd]; rfl
  have hvalue : inb[p + 1]? = rest.head? := by
    rw [← List.getElem?_drop, hd, List.getElem?_cons_succ, List.head?_eq_getElem?]
  rw [decodePlaneFrom, decodePlaneLoop, if_neg (Nat.not_le.2 hout), hcount]
  simp only [if_pos hc, hvalue]
  congr 1
  cases rest with
  | nil => rfl
  | cons v rest => exact decodePlaneLoop_length 1 _ hd

/-- A count byte of at most 128 is a literal: the overrun test, then the bytes (rule R134). -/
theorem decodePlaneFrom_literal (hout : out.length < w) (hd : inb.drop p = c :: rest)
    (hc : c.toNat ≤ 128) :
    decodePlaneFrom inb w p out =
      if w < out.length + c.toNat then .error ⟨.rleOverrun, p⟩
      else if rest.length < c.toNat then .error ⟨.eofRle, inb.length⟩
      else decodePlaneFrom inb w (p + 1 + c.toNat) (out ++ rest.take c.toNat) := by
  have hcount : inb[p]? = some c := by rw [← Nat.add_zero p, ← List.getElem?_drop, hd]; rfl
  have hbytes : inb.drop (p + 1) = rest := by rw [← List.drop_drop, hd]; rfl
  have hshort : inb.length < p + 1 + c.toNat ↔ rest.length < c.toNat := by
    rw [length_of_drop_eq_cons hd]; omega
  rw [decodePlaneFrom, decodePlaneLoop, if_neg (Nat.not_le.2 hout), hcount]
  simp only [if_neg (Nat.not_lt.2 hc), hshort, hbytes, decodePlaneLoop_length _ _ hd]

end

/-- In a plane that is not full the decoder reads a packet, on which `decode_plane` goes as the packet says, or
it rejects the input for the reason for which `decode_plane` fails. -/
theorem decodePacket_agrees {inb : List Byte} {q : Seq} {k : Plane} {buf : PlaneBuf}
    (hp : q.phase = .planes k buf) (hout : (buf.get k).length < q.w) :
    (∃ i, decodePacket (inb.drop q.p) = .ok i ∧ i.isPacket = true ∧ q.p + i.size ≤ inb.length ∧
      decodePlaneFrom inb q.w q.p (buf.get k) =
        if q.w < (buf.get k).length + (packetValues i).length then .error ⟨.rleOverrun, q.p⟩
        else decodePlaneFrom inb q.w (q.p + i.size) (buf.get k ++ packetValues i)) ∨
    ∃ r, decodePacket (inb.drop q.p) = .error r ∧
      decodePlaneFrom inb q.w q.p (buf.get k) = .error (q.rejected inb.length r) := by
  rcases hd : inb.drop q.p with _ | ⟨c, rest⟩
  · exact .inr ⟨.noCountByte, rfl, decodePlaneFrom_end hout hd⟩
  have hlen := length_of_drop_eq_cons hd
  rcases Nat.lt_or_ge 128 c.toNat with hc | hc
  · rw [decodePlaneFrom_run hout hd hc]
    rcases rest with _ | ⟨v, rest⟩
    · refine .inr ⟨_, decodePacket_shortRun hc, ?_⟩
      rw [Seq.rejected, Seq.fill_planes q hp, apply_ite Except.error]
      rfl
    · obtain ⟨i, hi, -, hpacket, hsize, -, hvalues⟩ := decodePacket_reads_run (v := v) hc rest
      refine .inl ⟨i, hi, hpacket, by rw [hsize, hlen, List.length_cons]; omega, ?_⟩
      rw [hvalues, hsize, List.length_replicate]
      rfl
  · rw [decodePlaneFrom_literal hout hd hc]
    rcases Nat.lt_or_ge rest.length c.toNat with hrest | hrest
    · refine .inr ⟨_, decodePacket_shortLiteral hc hrest, ?_⟩
      rw [Seq.rejected, Seq.fill_planes q hp, if_pos hrest, apply_ite Except.error]
    · obtain ⟨i, hi, -, hpacket, hsize, -, hvalues⟩ := decodePacket_reads_literal hc hrest
      refine .inl ⟨i, hi, hpacket, by omega, ?_⟩
      rw [hvalues, hsize, List.length_take_of_le hrest, if_neg (Nat.not_lt.2 hrest), Nat.add_assoc]

/-! ### The planes of a scanline (rules R131, R135) -/

/-- The plane `k` and those after it, in the order R, G, B, E. -/
def Plane.onward : Plane → List Plane
  | .r => [.r, .g, .b, .e]
  | .g => [.g, .b, .e]
  | .b => [.b, .e]
  | .e => [.e]

theorem Plane.onward_of_next {k k' : Plane} (h : k.next = some k') : k.onward = k :: k'.onward := by
  cases k <;> cases h <;> rfl

theorem Plane.onward_of_last {k : Plane} (h : k.next = none) : k.onward = [k] := by
  cases k <;> cases h
  rfl

theorem Plane.onward_eq_cons (k : Plane) : ∃ ks, k.onward = k :: ks := by
  cases k <;> exact ⟨_, rfl⟩

/-- Sets the bytes of a plane. -/
def PlaneBuf.put (buf : PlaneBuf) (k : Plane) (bytes : List Byte) : PlaneBuf :=
  match k with
  | .r => { buf with r := bytes }
  | .g => { buf with g := bytes }
  | .b => { buf with b := bytes }
  | .e => { buf with e := bytes }

@[simp] theorem PlaneBuf.put_get (buf : PlaneBuf) (k : Plane) : buf.put k (buf.get k) = buf := by
  cases k <;> rfl

@[simp] theorem PlaneBuf.put_append (buf : PlaneBuf) (k : Plane) (values bytes : List Byte) :
    (buf.append k values).put k bytes = buf.put k bytes := by
  cases k <;> rfl

/-- The planes `ks` of a scanline whose planes hold `buf` already: `decode_rle_scanline` from the cursor `p`
on. -/
def decodePlanesFrom (inb : List Byte) (w : Nat) :
    List Plane → PlaneBuf → Nat → Except Failure (List Rgbe × Nat)
  | [], buf, p => .ok (zipPlanes buf.r buf.g buf.b buf.e, p)
  | k :: ks, buf, p =>
    (decodePlaneFrom inb w p (buf.get k)).bind fun (out, p) => decodePlanesFrom inb w ks (buf.put k out) p

section
variable {inb : List Byte} {w p : Nat} {k : Plane} {ks : List Plane} {buf : PlaneBuf}

theorem decodePlanesFrom_empty :
    decodePlanesFrom inb w Plane.r.onward PlaneBuf.empty p = decodePlanes inb w p := rfl

/-- Behind a full plane come the others. -/
theorem decodePlanesFrom_full (h : w ≤ (buf.get k).length) :
    decodePlanesFrom inb w (k :: ks) buf p = decodePlanesFrom inb w ks buf p := by
  simp only [decodePlanesFrom, decodePlaneFrom_full h, Except.bind, PlaneBuf.put_get]

theorem decodePlanesFrom_error {why : Failure}
    (h : decodePlaneFrom inb w p (buf.get k) = .error why) :
    decodePlanesFrom inb w (k :: ks) buf p = .error why := by
  rw [decodePlanesFrom, h]
  rfl

/-- Values that `decode_plane` reads may as well be in the plane already. -/
theorem decodePlanesFrom_append {p' : Nat} {values : List Byte}
    (h : decodePlaneFrom inb w p (buf.get k) = decodePlaneFrom inb w p' (buf.get k ++ values)) :
    decodePlanesFrom inb w (k :: ks) buf p = decodePlanesFrom inb w (k :: ks) (buf.append k values) p' := by
  simp only [decodePlanesFrom, h, PlaneBuf.get_append_same, PlaneBuf.put_append]

end

/-! ### The result of a RUN at a stage -/

/-- What a RUN reports: the accepted dimensions, and the file or the error. -/
abbrev RunResult := Option (Nat × Nat) × Except Failure (List Byte)

/-- The rest of the scanline that `q` has begun, with the cursor behind it (rules R129 to R136). -/
def Seq.decodeRow (q : Seq) (inb : List Byte) : Except Failure (List Rgbe × Nat) :=
  match q.phase with
  | .start => decodeScanline inb q.w q.p
  | .flat row => decodeFlatPixels inb (q.w - row.length) q.p row
  | .planes k buf => decodePlanesFrom inb q.w k.onward buf q.p

/-- What a RUN at `q` reports if its scanline ends so (rules R120, R128). The cursor and the phase of `q` do not
matter. -/
def Seq.resultBehind (q : Seq) (p : Params) (inb : List Byte)
    (row : Except Failure (List Rgbe × Nat)) : RunResult :=
  (some (q.w, q.h), row.bind fun (row, cursor) =>
    (decodeScanlines inb q.w (q.h - (q.y + 1)) cursor (q.raster ++ row.map expand)).bind fun raster =>
      imageResult p ⟨q.w, q.h, raster⟩)

/-- What a RUN over `inb` at this stage comes to report. -/
def RunStage.result (p : Params) (inb : List Byte) : RunStage → RunResult
  | .header => runResult p inb
  | .scanlines q => q.resultBehind p inb (q.decodeRow inb)
  | .decoded img => (some (img.w, img.h), imageResult p img)
  | .packed pk => (some (pk.w, pk.h), tgaWrite p pk)
  | .written w h file => (some (w, h), .ok file)
  | .failed dims why => (dims, .error why)

/-! ### The header (rules R120 to R127) -/

theorem runResult_of_header_error {p : Params} {inb : List Byte} {why : Failure}
    (h : parseHeader p inb = .error why) : runResult p inb = (none, .error why) := by
  simp only [runResult, rgbeDecode, h]

theorem runResult_of_header_ok {p : Params} {inb : List Byte} {a : Accepted}
    (h : parseHeader p inb = .ok a) :
    runResult p inb = (some (a.w, a.h), (decodeScanlines inb a.w a.h a.next []).bind fun raster =>
      imageResult p ⟨a.w, a.h, raster⟩) := by
  simp only [runResult, rgbeDecode, h]
  cases decodeScanlines inb a.w a.h a.next [] <;> rfl

/-- The scanlines from the start of the next one on, of which one at least is left (rule R128). -/
theorem result_at_start {q : Seq} (hphase : q.phase = .start) (hy : q.y < q.h) (p : Params)
    (inb : List Byte) :
    (RunStage.scanlines q).result p inb = (some (q.w, q.h),
      (decodeScanlines inb q.w (q.h - q.y) q.p q.raster).bind fun raster =>
        imageResult p ⟨q.w, q.h, raster⟩) := by
  obtain ⟨n, hn⟩ : ∃ n, q.h - q.y = n + 1 := ⟨q.h - q.y - 1, by omega⟩
  have hrest : q.h - (q.y + 1) = n := by omega
  rw [RunStage.result, Seq.resultBehind, Seq.decodeRow, hphase, hrest, hn, decodeScanlines]
  cases decodeScanline inb q.w q.p <;> rfl

theorem result_headerStage (p : Params) (inb : List Byte) :
    (headerStage p inb).result p inb = runResult p inb := by
  unfold headerStage
  split
  · next why h => rw [runResult_of_header_error h]; rfl
  · next a h =>
    have hpos : 0 < a.h := by
      have hok := headerStage_ok p inb
      simp only [headerStage, h, RunStage.ok, Seq.ok_iff] at hok
      exact hok.1.rows
    rw [runResult_of_header_ok h, result_at_start (q := Seq.first a) rfl hpos]
    rfl

/-! ### The scanlines (rules R128 to R136) -/

section
variable {inb : List Byte} {q : Seq} (p : Params)

theorem Seq.result_raise (why : Failure) :
    (q.raise why).result p inb = q.resultBehind p inb (.error why) := rfl

/-- A complete scanline is followed by the next one or by the pixel pipeline. -/
theorem Seq.result_finishRow (hy : q.y < q.h) (row : List Rgbe) :
    (q.finishRow row).result p inb = q.resultBehind p inb (.ok (row, q.p)) := by
  unfold Seq.finishRow
  split
  · next hlt =>
    exact result_at_start (q := { q with y := q.y + 1, phase := .start, raster := _ }) rfl hlt p inb
  · next hge =>
    have hlast : q.h - (q.y + 1) = 0 := by omega
    rw [Seq.resultBehind, hlast]
    rfl

/-- A pixel that is read joins its scanline as in `decode_flat` (rule R136). -/
theorem Seq.result_takePixel {row : List Rgbe} {r g b e : Byte} {rest : List Byte} (hy : q.y < q.h)
    (hrow : row.length < q.w) (hd : inb.drop q.p = r :: g :: b :: e :: rest) :
    (q.takePixel inb.length row ⟨r, g, b, e⟩).result p inb =
      q.resultBehind p inb (decodeFlatPixels inb (q.w - row.length) q.p row) := by
  have hlen := length_of_drop_eq_cons hd
  obtain ⟨n, hn⟩ : ∃ n, q.w - row.length = n + 1 := ⟨q.w - row.length - 1, by omega⟩
  have hpixel : decodeFlatPixels inb (n + 1) q.p row =
      decodeFlatPixels inb n (q.p + 4) (row ++ [⟨r, g, b, e⟩]) := by
    rw [decodeFlatPixels, hd]
  simp only [List.length_cons] at hlen
  rw [hn, hpixel, Seq.takePixel, if_neg (by omega)]
  split
  · next hlt =>
    have hleft : q.w - (row ++ [(⟨r, g, b, e⟩ : Rgbe)]).length = n := by
      rw [List.length_append, List.length_singleton]; omega
    rw [← hleft]
    rfl
  · next hge =>
    obtain rfl : n = 0 := by omega
    exact Seq.result_finishRow (q := { q with p := q.p + 4 }) p hy _

/-- Values that enter a plane are read there as in `decode_plane` (rules R131, R132, R135). -/
theorem Seq.result_fillPlane (hy : q.y < q.h) (k : Plane) (buf : PlaneBuf) (values : List Byte) :
    (q.fillPlane k buf values).result p inb =
      q.resultBehind p inb (decodePlanesFrom inb q.w k.onward (buf.append k values) q.p) := by
  simp only [Seq.fillPlane]
  split
  · rfl
  · next hfull =>
    split
    · next k' hnext =>
      rw [Plane.onward_of_next hnext, decodePlanesFrom_full (Nat.not_lt.1 hfull)]
      rfl
    · next hlast =>
      rw [Plane.onward_of_last hlast, decodePlanesFrom_full (Nat.not_lt.1 hfull)]
      exact Seq.result_finishRow p hy _

end

end Sys2Proof.Machine

/-! ## A RUN completes with the result of its functions -/
namespace Sys2Proof.Machine

/-! ### A hidden step keeps the result -/

/-- The bytes hold no whole pixel or marker (rules R129, R136). -/
def NoWholePixel (bytes : List Byte) : Prop := ¬∃ r g b e rest, bytes = r :: g :: b :: e :: rest

theorem decodeFlat_short {bytes : List Byte} (h : NoWholePixel bytes) :
    decodeFlat bytes = .error .shortPixel := by
  unfold decodeFlat
  split
  · exact absurd ⟨_, _, _, _, _, rfl⟩ h
  · rfl

theorem decodeRowStart_short {bytes : List Byte} (h : NoWholePixel bytes) (eligible : Bool) :
    decodeRowStart eligible bytes = .error .shortPixel := by
  unfold decodeRowStart
  split
  · exact absurd ⟨_, _, _, _, _, rfl⟩ h
  · rfl

/-- `decode_flat` fails where a pixel is cut short. -/
theorem decodeFlatPixels_short {inb : List Byte} {n p : Nat} (hn : 0 < n)
    (h : NoWholePixel (inb.drop p)) (row : List Rgbe) :
    decodeFlatPixels inb n p row = .error ⟨.eofFlat, inb.length⟩ := by
  obtain ⟨n, rfl⟩ := Nat.exists_eq_succ_of_ne_zero (Nat.ne_of_gt hn)
  rw [decodeFlatPixels]
  split
  · next hd => exact absurd ⟨_, _, _, _, _, hd⟩ h
  · rfl

/-- A marker's pattern is looked for only at an eligible width (rules R129, R130). -/
theorem decodeScanline_pixel {inb : List Byte} {w p : Nat} {r g b e : Byte} {rest : List Byte}
    (hd : inb.drop p = r :: g :: b :: e :: rest)
    (hm : ¬(Config.rleEligible w = true ∧ r = 0x02#8 ∧ g = 0x02#8 ∧ b.toNat < 128)) :
    decodeScanline inb w p = decodeFlatPixels inb w p [] := by
  rw [decodeScanline]
  split
  · next hw =>
    rw [hd]
    exact if_neg fun ⟨hr, hg, hb⟩ => hm ⟨hw, BitVec.eq_of_toNat_eq hr, BitVec.eq_of_toNat_eq hg, hb⟩
  · rfl

theorem decodeScanline_marker {inb : List Byte} {w p : Nat} {b e : Byte} {rest : List Byte}
    (hd : inb.drop p = 0x02#8 :: 0x02#8 :: b :: e :: rest) (hw : Config.rleEligible w = true)
    (hb : b.toNat < 128) :
    decodeScanline inb w p =
      if b.toNat * 256 + e.toNat = w then decodePlanes inb w (p + 4) else .error ⟨.markerWidth, p⟩ := by
  rw [decodeScanline, if_pos hw, hd]
  exact if_pos ⟨rfl, rfl, hb⟩

theorem decodeScanline_short {inb : List Byte} {w p : Nat} (hw : 0 < w)
    (h : NoWholePixel (inb.drop p)) : decodeScanline inb w p = .error ⟨.eofFlat, inb.length⟩ := by
  rw [decodeScanline, decodeFlatPixels_short hw h]
  split
  · split
    · next hd => exact absurd ⟨_, _, _, _, _, hd⟩ h
    · rfl
  · rfl

section
variable {s : State} {inb : List Byte} {q : Seq}

theorem tick_of_decode_ok (hj : s.Reading inb q) {i : Instr} (hi : decode (q.source inb) = .ok i) :
    tick s = exec i s := by
  simp only [tick, hj, hi]

theorem tick_of_decode_error (hj : s.Reading inb q) {r : Reject}
    (hr : decode (q.source inb) = .error r) :
    tick s = .next (s.setStage inb (q.raise (q.rejected inb.length r))) := by
  simp only [tick, hj, hr]

/-- A packet, read inside a plane, by its size and its values. -/
theorem exec_packet (hj : s.Reading inb q) {k : Plane} {buf : PlaneBuf} (hp : q.phase = .planes k buf)
    {i : Instr} (hi : i.isPacket = true) :
    exec i s = .next (s.setStage inb (q.takePacket inb.length k buf i.size (packetValues i))) := by
  cases i with
  | rleRun n v => exact State.inPlane_of hj hp _
  | rleLiteral bytes => exact State.inPlane_of hj hp _
  | rleLiteral128 bytes => exact State.inPlane_of hj hp _
  | _ => cases hi

/-- A hidden step inside a plane goes on as `decode_plane` does (rules R132 to R134). -/
theorem tick_in_plane (hj : s.Reading inb q) (hy : q.y < q.h) {k : Plane} {buf : PlaneBuf}
    (hp : q.phase = .planes k buf) (hk : (buf.get k).length < q.w) :
    ∃ stage, tick s = .next (s.setStage inb stage) ∧
      stage.result s.params inb =
        q.resultBehind s.params inb (decodePlanesFrom inb q.w k.onward buf q.p) := by
  have hsource : decode (q.source inb) = decodePacket (inb.drop q.p) := by
    simp only [Seq.source, hp, decode]
  obtain ⟨ks, hks⟩ := k.onward_eq_cons
  obtain ⟨i, hi, hpacket, hlen, hplane⟩ | ⟨r, hr, hplane⟩ := decodePacket_agrees hp hk
  · refine ⟨_, (tick_of_decode_ok hj (hsource.trans hi)).trans (exec_packet hj hp hpacket), ?_⟩
    rw [hks]
    split at hplane
    · next hover =>
      rw [Seq.takePacket_overrun _ _ hp hover, decodePlanesFrom_error hplane, Seq.result_raise]
    · next hfits =>
      rw [Seq.takePacket_fits hp (Nat.not_lt.1 hfits) hlen, decodePlanesFrom_append hplane, ← hks]
      exact Seq.result_fillPlane (q := { q with p := q.p + i.size }) s.params hy k buf _
  · exact ⟨_, tick_of_decode_error hj (hsource.trans hr),
      by rw [hks, decodePlanesFrom_error hplane, Seq.result_raise]⟩

/-- A hidden step at a pixel of a scanline goes on as `decode_flat` does (rule R136). -/
theorem tick_at_pixel (hj : s.Reading inb q) (hy : q.y < q.h) {row : List Rgbe}
    (hp : (q.phase = .start ∧ row = []) ∨ q.phase = .flat row) (hrow : row.length < q.w)
    {r g b e : Byte} {rest : List Byte} (hd : inb.drop q.p = r :: g :: b :: e :: rest)
    (hi : decode (q.source inb) = .ok (.flatPixel r g b e)) :
    ∃ stage, tick s = .next (s.setStage inb stage) ∧
      stage.result s.params inb =
        q.resultBehind s.params inb (decodeFlatPixels inb (q.w - row.length) q.p row) := by
  refine ⟨_, (tick_of_decode_ok hj hi).trans ?_, Seq.result_takePixel s.params hy hrow hd⟩
  obtain ⟨hp, rfl⟩ | hp := hp
  · exact (exec_flatPixel r g b e s).trans (State.inRow_of_start hj hp _)
  · exact (exec_flatPixel r g b e s).trans (State.inRow_of_flat hj hp _)

/-- A hidden step at a marker goes on as `decode_rle_scanline` does (rule R131). -/
theorem tick_at_marker (hj : s.Reading inb q) (hp : q.phase = .start)
    (hw : Config.rleEligible q.w = true) {b e : Byte} {rest : List Byte} (hb : b.toNat < 128)
    (hd : inb.drop q.p = 0x02#8 :: 0x02#8 :: b :: e :: rest) :
    ∃ stage, tick s = .next (s.setStage inb stage) ∧
      stage.result s.params inb = q.resultBehind s.params inb (decodeScanline inb q.w q.p) := by
  have hi : decode (q.source inb) = .ok (.scanlineMarker (b.extractLsb' 0 7) e) := by
    simp only [Seq.source, hp, decode, hd]
    exact if_pos ⟨hw, rfl, rfl, hb⟩
  have hwidth : markerWidth (b.extractLsb' 0 7) e = b.toNat * 256 + e.toNat := by
    rw [markerWidth, BitVec.extractLsb'_toNat, Nat.shiftRight_zero, Nat.mod_eq_of_lt hb]
  have hlen := length_of_drop_eq_cons hd
  simp only [List.length_cons] at hlen
  refine ⟨_, (tick_of_decode_ok hj hi).trans (State.atRowStart_of hj hp hw _), ?_⟩
  have hfits : ¬inb.length < q.p + 4 := by omega
  simp only [Seq.takeMarker, if_neg hfits, hwidth, decodeScanline_marker hd hw hb]
  by_cases heq : b.toNat * 256 + e.toNat = q.w
  · rw [if_neg (fun hne => hne heq), if_pos heq]
    rfl
  · rw [if_pos heq, if_neg heq]
    rfl

/-- A hidden step at the start of a scanline goes on as `decode_scanline` does (rules R129 to R131). -/
theorem tick_at_start (hj : s.Reading inb q) (hy : q.y < q.h) (hw : 0 < q.w) (hp : q.phase = .start) :
    ∃ stage, tick s = .next (s.setStage inb stage) ∧
      stage.result s.params inb = q.resultBehind s.params inb (decodeScanline inb q.w q.p) := by
  have hsource : decode (q.source inb) = decodeRowStart (Config.rleEligible q.w) (inb.drop q.p) := by
    simp only [Seq.source, hp, decode]
  obtain ⟨r, g, b, e, rest, hd⟩ | hshort :=
    Classical.em (∃ r g b e rest, inb.drop q.p = r :: g :: b :: e :: rest)
  · by_cases hm : Config.rleEligible q.w = true ∧ r = 0x02#8 ∧ g = 0x02#8 ∧ b.toNat < 128
    · obtain ⟨helig, rfl, rfl, hb⟩ := hm
      exact tick_at_marker hj hp helig hb hd
    · rw [decodeScanline_pixel hd hm]
      exact tick_at_pixel hj hy (.inl ⟨hp, rfl⟩) hw hd
        (hsource.trans (hd ▸ decodeRowStart_pixel r g b e rest hm))
  · refine ⟨_, tick_of_decode_error hj (hsource.trans (decodeRowStart_short hshort _)), ?_⟩
    rw [decodeScanline_short hw hshort]
    rfl

/-- A hidden step inside a flat scanline goes on as `decode_flat` does (rule R136). -/
theorem tick_in_flat (hj : s.Reading inb q) (hy : q.y < q.h) {row : List Rgbe}
    (hp : q.phase = .flat row) (hrow : row.length < q.w) :
    ∃ stage, tick s = .next (s.setStage inb stage) ∧
      stage.result s.params inb =
        q.resultBehind s.params inb (decodeFlatPixels inb (q.w - row.length) q.p row) := by
  have hsource : decode (q.source inb) = decodeFlat (inb.drop q.p) := by
    simp only [Seq.source, hp, decode]
  obtain ⟨r, g, b, e, rest, hd⟩ | hshort :=
    Classical.em (∃ r g b e rest, inb.drop q.p = r :: g :: b :: e :: rest)
  · exact tick_at_pixel hj hy (.inr hp) hrow hd (by rw [hsource, hd]; rfl)
  · refine ⟨_, tick_of_decode_error hj (hsource.trans (decodeFlat_short hshort)), ?_⟩
    rw [decodeFlatPixels_short (Nat.sub_pos_of_lt hrow) hshort]
    rfl

/-- The plane being read is not full (rule R132). -/
theorem length_get_lt_of_planesOk {w : Nat} {buf : PlaneBuf} {k : Plane} (h : planesOk w buf k = true) :
    (buf.get k).length < w := by
  cases k <;> simp only [planesOk, decide_eq_true_eq] at h <;> simp only [PlaneBuf.get, h]

/-- A token keeps the result. -/
theorem tick_token_result (hj : s.Reading inb q) (hok : q.ok s.params inb.length = true) :
    ∃ stage, tick s = .next (s.setStage inb stage) ∧
      stage.result s.params inb = (RunStage.scanlines q).result s.params inb := by
  obtain ⟨hb, hphase⟩ := Seq.ok_iff.1 hok
  rw [RunStage.result, Seq.decodeRow]
  cases hp : q.phase with
  | start => exact tick_at_start hj hb.rows hb.width_pos hp
  | flat row =>
    rw [hp, Phase.ok, decide_eq_true_eq] at hphase
    exact tick_in_flat hj hb.rows hp hphase.2
  | planes k buf =>
    rw [hp, Phase.ok, Bool.and_eq_true] at hphase
    exact tick_in_plane hj hb.rows hp (length_get_lt_of_planesOk hphase.2)

end

theorem result_writeStage (p : Params) (inb : List Byte) (pk : PackedImage) :
    (writeStage p pk).result p inb = (some (pk.w, pk.h), tgaWrite p pk) := by
  unfold writeStage
  split
  · next why h => rw [h]; rfl
  · next file h => rw [h]; rfl

/-- Every hidden step keeps the result. -/
theorem tick_keeps_result {s : State} {inb : List Byte} {stage : RunStage}
    (hj : s.job = some (.run inb stage)) (hp : s.params.Legal)
    (hok : stage.ok s.params inb.length = true) :
    ∃ stage', tick s = .next (s.setStage inb stage') ∧
      stage'.result s.params inb = stage.result s.params inb := by
  cases stage with
  | header => exact ⟨_, by simp only [tick, hj], result_headerStage s.params inb⟩
  | scanlines q => exact tick_token_result hj hok
  | decoded img =>
    simp only [RunStage.ok, Bool.and_eq_true, decide_eq_true_eq] at hok
    obtain ⟨-, hraster⟩ := hok
    exact ⟨.packed (pixelApply s.params s.outSeed img), by simp only [tick, hj],
      congrArg (Prod.mk _) (tgaWrite_pixelApply hp s.outSeed hraster)⟩
  | packed pk => exact ⟨_, by simp only [tick, hj], result_writeStage s.params inb pk⟩
  | written w h file => exact ⟨_, by simp only [tick, hj, State.setStage_self hj], rfl⟩
  | failed dims why => exact ⟨_, by simp only [tick, hj, State.setStage_self hj], rfl⟩

/-! ### The completion reports the result -/

theorem State.setStage_inj {s : State} {inb : List Byte} {stage stage' : RunStage}
    (h : s.setStage inb stage = s.setStage inb stage') : stage = stage' := by
  have hjob := congrArg State.job h
  rw [State.setStage_job, State.setStage_job] at hjob
  cases hjob
  rfl

theorem State.report_setStage (s : State) (inb : List Byte) (stage : RunStage) (res : RunResult) :
    (s.setStage inb stage).report res = s.report res := by
  obtain ⟨dims, why | file⟩ := res <;> rfl

theorem complete_settled {s : State} {inb : List Byte} {stage : RunStage}
    (hj : s.job = some (.run inb stage)) (hs : stage.Settled) :
    complete s = .next (s.report (stage.result s.params inb)) := by
  cases hs with
  | written w h file => exact complete_written hj
  | failed dims why => exact complete_failed hj

/-- A RUN at any stage, completed, reports the result of this stage: by induction on the hidden steps that are
left. -/
theorem complete_eq_report {s : State} {inb : List Byte} {stage : RunStage}
    (hj : s.job = some (.run inb stage)) (hp : s.params.Legal)
    (hok : stage.ok s.params inb.length = true) :
    complete s = .next (s.report (stage.result s.params inb)) := by
  induction hrank : stage.rank inb.length using Nat.strongRecOn generalizing s stage with
  | ind n ih =>
    obtain ⟨hs, -⟩ | ⟨stage', ht, hstep⟩ := tick_run hj
    · exact complete_settled hj hs
    · obtain ⟨stage'', ht', hresult⟩ := tick_keeps_result hj hp hok
      obtain rfl : stage' = stage'' := State.setStage_inj (Host.Outcome.next.inj (ht.symm.trans ht'))
      rw [← hiddenStepsDoNotChangeTheCompletion s _ ht,
        ih _ (hrank ▸ hstep.rank_lt) (State.setStage_job s inb stage') hp (hstep.ok hp hok) rfl,
        State.report_setStage, State.setStage_params, hresult]

theorem complete_issueRun {s : State} (hp : s.params.Legal) :
    complete s.issueRun = .next (s.issueRun.report (runResult s.params s.captureIn)) :=
  complete_eq_report (stage := .header) rfl hp rfl

/-- Settles O38: the issue leads to the stage whose result is `runResult`, and the completion reports it. -/
theorem runCompletesWithTheResultOfItsFunctions : Obligations.RunCompletesWithTheResultOfItsFunctions :=
  fun _ g hp hidle => ⟨_, exec_run_of_idle hidle g, complete_issueRun hp⟩

/-! ### A second RUN -/

/-- A completed RUN leaves the block idle, with the parameters and what the next RUN captures as they were. -/
theorem State.report_issueRun_frame (s : State) (res : RunResult) :
    (s.issueRun.report res).params = s.params ∧ (s.issueRun.report res).execState = .idle ∧
      (s.issueRun.report res).captureIn = s.captureIn := by
  obtain ⟨dims, why | file⟩ := res <;> exact ⟨rfl, rfl, State.captureIn_congr rfl rfl rfl⟩

/-- A second RUN that reports the same result shows in no register and in no byte of the file. -/
theorem State.report_issueRun_twice (s : State) (res : RunResult) :
    (∀ r, ((s.issueRun.report res).issueRun.report res).regValue r = (s.issueRun.report res).regValue r) ∧
      ((s.issueRun.report res).issueRun.report res).outMem = (s.issueRun.report res).outMem := by
  obtain ⟨dims, why | file⟩ := res <;> exact ⟨fun r => by cases r <;> rfl, rfl⟩

/-- Settles O39: the second RUN captures the same input, so that it reports the same result. -/
theorem runningTwiceGivesTheSameResult : Obligations.RunningTwiceGivesTheSameResult := by
  intro s t u v w g g' hp hidle ht hu hv hw
  cases (exec_run_of_idle hidle g).symm.trans ht
  cases (complete_issueRun hp).symm.trans hu
  obtain ⟨hparams, hidle', hcapture⟩ := s.report_issueRun_frame (runResult s.params s.captureIn)
  cases (exec_run_of_idle hidle' g').symm.trans hv
  have hp' : (s.issueRun.report (runResult s.params s.captureIn)).params.Legal := by
    rw [hparams]
    exact hp
  cases (complete_issueRun hp').symm.trans hw
  rw [hparams, hcapture]
  exact s.report_issueRun_twice (runResult s.params s.captureIn)

end Sys2Proof.Machine

/-! ## The header and the resolution line are read in the order of the checks -/
namespace Sys2Proof.Machine

/-! ### The first blank line (41_rgbe_decoder.md rules R121, R122) -/

/-- The byte at `i` is an LF that starts a line (30_encoding.md rule R83); `fresh` says that the bytes start
one. -/
def StartsWithFeedAt (fresh : Bool) (bytes : List Byte) : Nat → Prop
  | 0 => bytes[0]? = some lineFeed ∧ fresh = true
  | i + 1 => bytes[i + 1]? = some lineFeed ∧ bytes[i]? = some lineFeed

theorem blankLineEndsAt_succ (inb : List Byte) (i : Nat) :
    BlankLineEndsAt inb (i + 1) ↔ StartsWithFeedAt true inb i := by
  cases i <;> simp [BlankLineEndsAt, StartsWithFeedAt]

theorem startsWithFeedAt_cons_succ (fresh : Bool) (b : Byte) (rest : List Byte) (i : Nat) :
    StartsWithFeedAt fresh (b :: rest) (i + 1) ↔ StartsWithFeedAt (decide (b = lineFeed)) rest i := by
  cases i <;> simp [StartsWithFeedAt]

theorem skipHeader_of_feed {b : Byte} (hb : b = lineFeed) (p : Nat) (rest : List Byte) :
    skipHeader true p (b :: rest) = some (p + 1) := by
  rw [skipHeader, if_pos hb, if_pos rfl]

theorem skipHeader_of_not_feedAt_zero {fresh : Bool} {b : Byte} {rest : List Byte}
    (h : ¬StartsWithFeedAt fresh (b :: rest) 0) (p : Nat) :
    skipHeader fresh p (b :: rest) = skipHeader (decide (b = lineFeed)) (p + 1) rest := by
  by_cases hb : b = lineFeed
  · have hfresh : fresh = false := by simpa [StartsWithFeedAt, hb] using h
    simp [skipHeader, hb, hfresh]
  · simp [skipHeader, hb]

theorem skipHeader_eq_none {fresh : Bool} {bytes : List Byte}
    (h : ∀ i, ¬StartsWithFeedAt fresh bytes i) (p : Nat) : skipHeader fresh p bytes = none := by
  induction bytes generalizing fresh p with
  | nil => rfl
  | cons b rest ih =>
    rw [skipHeader_of_not_feedAt_zero (h 0)]
    exact ih (fun i hi => h (i + 1) ((startsWithFeedAt_cons_succ ..).2 hi)) _

theorem skipHeader_eq_some {fresh : Bool} {bytes : List Byte} {i : Nat}
    (h : StartsWithFeedAt fresh bytes i) (hfirst : ∀ j, j < i → ¬StartsWithFeedAt fresh bytes j)
    (p : Nat) : skipHeader fresh p bytes = some (p + i + 1) := by
  induction i generalizing fresh bytes p with
  | zero =>
    obtain ⟨hfeed, rfl⟩ := h
    obtain ⟨b, rest, rfl⟩ := List.exists_cons_of_ne_nil (l := bytes) (by rintro rfl; cases hfeed)
    exact skipHeader_of_feed (Option.some.inj hfeed) p rest
  | succ i ih =>
    obtain ⟨b, rest, rfl⟩ := List.exists_cons_of_ne_nil (l := bytes) (by rintro rfl; cases h.1)
    rw [skipHeader_of_not_feedAt_zero (hfirst 0 i.succ_pos),
      ih ((startsWithFeedAt_cons_succ ..).1 h) fun j hj hfeed =>
        hfirst (j + 1) (Nat.succ_lt_succ hj) ((startsWithFeedAt_cons_succ ..).2 hfeed)]
    congr 1
    omega

/-- Settles O26: `skip_header` finds the first LF that starts a line, and no other. -/
theorem headerEndsAtTheFirstBlankLine : Obligations.HeaderEndsAtTheFirstBlankLine := by
  intro p inb
  refine ⟨fun hnone => ?_, fun t ht hfirst => ?_⟩
  · have hskip : skipHeader true 0 inb = none :=
      skipHeader_eq_none (fun i hi => hnone (i + 1) ((blankLineEndsAt_succ inb i).2 hi)) 0
    simp only [parseHeader, hskip]
  · obtain ⟨i, rfl⟩ := Nat.exists_eq_succ_of_ne_zero (Nat.ne_of_gt ht.1)
    have hskip : skipHeader true 0 inb = some (i + 1) := by
      rw [skipHeader_eq_some ((blankLineEndsAt_succ inb i).1 ht) (fun j hj hfeed =>
        hfirst (j + 1) (Nat.succ_lt_succ hj) ((blankLineEndsAt_succ inb j).2 hfeed)), Nat.zero_add]
    simp only [parseHeader, hskip]

/-! ### The lines of the grammar (30_encoding.md rule R84) -/

theorem lineOf_eq_none {bytes : List Byte} (h : lineFeed ∉ bytes) : lineOf bytes = none := by
  induction bytes with
  | nil => rfl
  | cons b rest ih =>
    obtain ⟨hb, hrest⟩ := not_or.1 (mt List.mem_cons.2 h)
    rw [lineOf, if_neg (Ne.symm hb), ih hrest, Option.map_none]

theorem isDigit_iff (b : Byte) : isDigit b = true ↔ 0x30 ≤ b.toNat ∧ b.toNat ≤ 0x39 := decide_eq_true_iff

theorem decimal_append_digit (ds : List Byte) (d : Byte) :
    decimal (ds ++ [d]) = decimal ds * 10 + (d.toNat - 0x30) := by
  rw [decimal, List.foldl_append, List.foldl_cons, List.foldl_nil, ← decimal, Nat.mul_comm]

theorem takeAxis_bytes (a : Axis) (rest : List Byte) : takeAxis (a.bytes ++ rest) = some (a, rest) := by
  obtain ⟨_ | _, _ | _⟩ := a <;> rfl

theorem takeSpace_space (rest : List Byte) : takeSpace (0x20#8 :: rest) = some rest := rfl

theorem takeNumber_append {ds rest : List Byte} (hds : IsNumber ds)
    (hrest : ∀ b ∈ rest.head?, isDigit b = false) : takeNumber (ds ++ rest) = some (decimal ds, rest) := by
  obtain ⟨hne, hdigits⟩ := hds
  have hstop : rest.takeWhile isDigit = [] ∧ rest.dropWhile isDigit = rest := by
    cases rest with
    | nil => exact ⟨rfl, rfl⟩
    | cons b rest =>
      have hb := hrest b rfl
      exact ⟨List.takeWhile_cons_of_neg (by simp [hb]), List.dropWhile_cons_of_neg (by simp [hb])⟩
  have htake : (ds ++ rest).takeWhile isDigit = ds := by
    rw [List.takeWhile_append_of_pos hdigits, hstop.1, List.append_nil]
  have hdrop : (ds ++ rest).dropWhile isDigit = rest := by
    rw [List.dropWhile_append_of_pos hdigits, hstop.2]
  rw [takeNumber, htake, hdrop, if_neg hne]

theorem takeAxisNumber_append (a : Axis) {ds rest : List Byte} (hds : IsNumber ds)
    (hrest : ∀ b ∈ rest.head?, isDigit b = false) :
    takeAxisNumber (a.bytes ++ 0x20#8 :: (ds ++ rest)) = some (a, decimal ds, rest) := by
  simp only [takeAxisNumber, takeAxis_bytes, takeSpace_space, takeNumber_append hds hrest,
    Option.bind_some, Option.map_some]

/-- A line of the grammar is parsed into its parts, unless its two letters are alike. -/
theorem parseResLine_resolutionLine (a1 a2 : Axis) {d1 d2 : List Byte} (h1 : IsNumber d1)
    (h2 : IsNumber d2) :
    parseResLine (resolutionLine a1 d1 a2 d2) =
      if a1.letter ≠ a2.letter then some ⟨a1, decimal d1, a2, decimal d2⟩ else none := by
  have hline : resolutionLine a1 d1 a2 d2 =
      a1.bytes ++ 0x20#8 :: (d1 ++ 0x20#8 :: (a2.bytes ++ 0x20#8 :: (d2 ++ []))) := by
    simp [resolutionLine]
  have hspace : ∀ b ∈ (0x20#8 :: (a2.bytes ++ 0x20#8 :: (d2 ++ []))).head?, isDigit b = false := by
    simp [isDigit]
  simp only [parseResLine, hline, takeAxisNumber_append a1 h1 hspace, takeSpace_space,
    takeAxisNumber_append a2 h2 (rest := []) nofun, Option.bind_some, true_and]

theorem lineFeed_notMem_of_isNumber {ds : List Byte} (h : IsNumber ds) : lineFeed ∉ ds :=
  fun hmem => absurd (h.2 _ hmem) (by decide)

theorem lineFeed_notMem_axis (a : Axis) : lineFeed ∉ a.bytes := by
  obtain ⟨_ | _, _ | _⟩ := a <;> decide

theorem lineFeed_notMem_resolutionLine (a1 a2 : Axis) {d1 d2 : List Byte} (h1 : IsNumber d1)
    (h2 : IsNumber d2) : lineFeed ∉ resolutionLine a1 d1 a2 d2 := by
  have hspace : lineFeed ≠ 0x20#8 := by decide
  simp [resolutionLine, hspace, lineFeed_notMem_axis, lineFeed_notMem_of_isNumber h1,
    lineFeed_notMem_of_isNumber h2]

/-! ### The checks behind the grammar (rules R124 to R127) -/

section
variable {inb line rest : List Byte} {s : Nat} (p : Params)

theorem parseResolution_of_parse_none (hdrop : inb.drop s = line ++ lineFeed :: rest)
    (hline : lineFeed ∉ line) (hparse : parseResLine line = none) :
    parseResolution p inb s = .error ⟨.resGrammar, s⟩ := by
  simp only [parseResolution, hdrop, lineOf_append hline, hparse]

/-- The checks of a line that is parsed, in the order of 60_exceptions.md rule R195. -/
theorem parseResolution_of_parse {l : ResLine} (hdrop : inb.drop s = line ++ lineFeed :: rest)
    (hline : lineFeed ∉ line) (hparse : parseResLine line = some l) :
    parseResolution p inb s =
      if l.w = 0 ∨ l.h = 0 then .error ⟨.dimZero, s⟩
      else if p.maxW < l.w ∨ p.maxH < l.h then .error ⟨.dimTooLarge, s⟩
      else if l.upright then .ok ⟨l.w, l.h, s + line.length + 1⟩
      else .error ⟨.orientation, s⟩ := by
  simp only [parseResolution, hdrop, lineOf_append hline, hparse]

end

/-- W is the number behind the X axis, H the one behind the Y axis, in either order of the axes (rule R85). -/
theorem ResLine.dims_of_axes {a1 a2 : Axis} {n1 n2 w h : Nat}
    (hwh : (a1.letter = .y ∧ a2.letter = .x ∧ h = n1 ∧ w = n2) ∨
      (a1.letter = .x ∧ a2.letter = .y ∧ w = n1 ∧ h = n2)) :
    a1.letter ≠ a2.letter ∧ (ResLine.mk a1 n1 a2 n2).w = w ∧ (ResLine.mk a1 n1 a2 n2).h = h := by
  obtain ⟨hl1, hl2, rfl, rfl⟩ | ⟨hl1, hl2, rfl, rfl⟩ := hwh <;> simp [ResLine.w, ResLine.h, hl1, hl2]

/-- Settles O27: a line of the grammar is parsed into its parts, and the checks follow in order. -/
theorem resolutionLinesAreCheckedInOrder : Obligations.ResolutionLinesAreCheckedInOrder := by
  refine ⟨⟨rfl, fun ds d => ⟨isDigit_iff d, fun _ => decimal_append_digit ds d⟩⟩,
    fun p inb s => ⟨fun hnone => ?_, fun a1 a2 d1 d2 rest h1 h2 hdrop => ⟨fun halike => ?_, ?_⟩⟩⟩
  · simp only [parseResolution, lineOf_eq_none hnone]
  · exact parseResolution_of_parse_none p hdrop (lineFeed_notMem_resolutionLine a1 a2 h1 h2)
      ((parseResLine_resolutionLine a1 a2 h1 h2).trans (if_neg fun hne => hne halike))
  · intro w h hwh
    obtain ⟨hletter, hw, hh⟩ := ResLine.dims_of_axes hwh
    rw [parseResolution_of_parse p hdrop (lineFeed_notMem_resolutionLine a1 a2 h1 h2)
      ((parseResLine_resolutionLine a1 a2 h1 h2).trans (if_pos hletter)), hw, hh]
    refine ⟨fun hzero => if_pos hzero, fun hw0 hh0 hlarge => ?_, fun hw0 hh0 hmaxW hmaxH => ?_⟩
    · rw [if_neg (not_or.2 ⟨hw0, hh0⟩), if_pos hlarge]
    · rw [if_neg (not_or.2 ⟨hw0, hh0⟩), if_neg (not_or.2 ⟨Nat.not_lt.2 hmaxW, Nat.not_lt.2 hmaxH⟩)]
      exact ⟨fun hupright => if_pos (decide_eq_true hupright),
        fun hother => if_neg (by simpa [ResLine.upright] using hother)⟩

end Sys2Proof.Machine

/-! ## The tokens of the stream, each by what it makes of its scanline -/
namespace Sys2Proof.Machine

/-! ### One hidden step (41_rgbe_decoder.md rules R129, R132, R136) -/

theorem noWholePixel_drop {inb : List Byte} {p : Nat} (h : inb.length < p + 4) :
    NoWholePixel (inb.drop p) := by
  rintro ⟨r, g, b, e, rest, hd⟩
  have hlen := length_of_drop_eq_cons hd
  simp only [List.length_cons] at hlen
  omega

/-- Fewer than four bytes hold neither a marker nor a pixel. -/
theorem decode_source_short {inb : List Byte} {q : Seq}
    (hp : q.phase = .start ∨ ∃ row, q.phase = .flat row) (h : inb.length < q.p + 4) :
    decode (q.source inb) = .error .shortPixel := by
  obtain hp | ⟨row, hp⟩ := hp
  · simp only [Seq.source, hp, decode, decodeRowStart_short (noWholePixel_drop h)]
  · simp only [Seq.source, hp, decode, decodeFlat_short (noWholePixel_drop h)]

/-- Behind the last byte there is no count byte. -/
theorem decode_source_no_count {inb : List Byte} {q : Seq} {k : Plane} {buf : PlaneBuf}
    (hp : q.phase = .planes k buf) (h : inb.length ≤ q.p) :
    decode (q.source inb) = .error .noCountByte := by
  simp only [Seq.source, hp, decode, List.drop_of_length_le h, decodePacket]

/-- A packet of `n` values that cannot be read whole: the overrun comes first (60_exceptions.md rule R195). -/
theorem Seq.rejected_packet {q : Seq} {k : Plane} {buf : PlaneBuf} (hp : q.phase = .planes k buf) (L : Nat)
    {n : Nat} {r : Reject} (hr : r = .shortRun n ∨ r = .shortLiteral n) :
    q.rejected L r = if q.w < (buf.get k).length + n then ⟨.rleOverrun, q.p⟩ else ⟨.eofRle, L⟩ := by
  obtain rfl | rfl := hr <;> rw [Seq.rejected, Seq.fill_planes q hp]

section
variable {s : State} {rest : List Event} {inb : List Byte} {q : Seq}

/-- The script is no part of what a hidden step reads or writes. -/
theorem step_tick_of_decode_ok (hs : s.script = .tick :: rest) (hj : s.Reading inb q) {i : Instr}
    (hi : decode (q.source inb) = .ok i) : step s = exec i { s with script := rest } :=
  (step_of_script_cons hs).trans (tick_of_decode_ok (s := { s with script := rest }) hj hi)

theorem step_tick_of_decode_error (hs : s.script = .tick :: rest) (hj : s.Reading inb q) {r : Reject}
    (hr : decode (q.source inb) = .error r) :
    step s = .next (State.setStage { s with script := rest } inb (q.raise (q.rejected inb.length r))) :=
  (step_of_script_cons hs).trans (tick_of_decode_error (s := { s with script := rest }) hj hr)

/-- A packet that cannot be read whole. -/
theorem step_tick_of_short_packet (hs : s.script = .tick :: rest) (hj : s.Reading inb q) {k : Plane}
    {buf : PlaneBuf} (hp : q.phase = .planes k buf) {n : Nat}
    (hr : decode (q.source inb) = .error (.shortRun n) ∨
      decode (q.source inb) = .error (.shortLiteral n)) :
    step s = .next (State.setStage { s with script := rest } inb (q.raise
      (if q.w < (buf.get k).length + n then ⟨.rleOverrun, q.p⟩ else ⟨.eofRle, inb.length⟩))) := by
  obtain hr | hr := hr
  · rw [step_tick_of_decode_error hs hj hr, Seq.rejected_packet hp _ (.inl rfl)]
  · rw [step_tick_of_decode_error hs hj hr, Seq.rejected_packet hp _ (.inr rfl)]

end

/-- Settles O8: a hidden step is `exec` of what `decode` reads, or the raise of what it rejects. -/
theorem stepRunsTheDecodedToken : Obligations.StepRunsTheDecodedToken := by
  intro s rest inb q hs hj failsWith
  refine ⟨fun i => step_tick_of_decode_ok hs hj, step_tick_of_decode_error hs hj,
    step_tick_of_decode_error hs hj, fun k buf n hp hr => ?_, fun hp => ?_, fun row hp => ?_,
    fun k buf hp => ?_, fun hp hlen => step_tick_of_decode_error hs hj (decode_source_short hp hlen),
    fun k buf hp hlen => step_tick_of_decode_error hs hj (decode_source_no_count hp hlen)⟩
  · have hstep := step_tick_of_short_packet hs hj hp hr
    refine ⟨fun hover => ?_, fun hfits => ?_⟩
    · rwa [if_pos hover] at hstep
    · rwa [if_neg (Nat.not_lt.2 hfits)] at hstep
  all_goals simp only [Seq.source, hp]

/-! ### The marker (rule R131) -/

section
variable {q : Seq} {L : Nat}

theorem Seq.takeMarker_opens {wm : Nat} (hl : q.p + 4 ≤ L) (hw : wm = q.w) :
    q.takeMarker L wm = .scanlines { q with p := q.p + 4, phase := .planes .r PlaneBuf.empty } := by
  rw [Seq.takeMarker, if_neg (Nat.not_lt.2 hl), if_neg fun hne => hne hw]

theorem Seq.takeMarker_fails {wm : Nat} (hl : q.p + 4 ≤ L) (hw : wm ≠ q.w) :
    q.takeMarker L wm = q.raise ⟨.markerWidth, q.p⟩ := by
  rw [Seq.takeMarker, if_neg (Nat.not_lt.2 hl), if_pos hw]

/-! ### The end of a scanline (rules R128, R140) -/

theorem Seq.finishRow_next (h : q.y + 1 < q.h) (row : List Rgbe) :
    q.finishRow row =
      .scanlines { q with y := q.y + 1, phase := .start, raster := q.raster ++ row.map expand } := by
  rw [Seq.finishRow, if_pos h]

theorem Seq.finishRow_last (h : q.y + 1 = q.h) (row : List Rgbe) :
    q.finishRow row = .decoded ⟨q.w, q.h, q.raster ++ row.map expand⟩ := by
  rw [Seq.finishRow, if_neg (Nat.not_lt.2 (Nat.le_of_eq h.symm))]

/-! ### The planes (rules R131, R132) -/

theorem Seq.fillPlane_short {k : Plane} {buf : PlaneBuf} {values : List Byte}
    (h : (buf.get k).length + values.length < q.w) :
    q.fillPlane k buf values = .scanlines { q with phase := .planes k (buf.append k values) } := by
  simp only [Seq.fillPlane, PlaneBuf.get_append_same, List.length_append, if_pos h]

theorem Seq.fillPlane_full_next {k k' : Plane} {buf : PlaneBuf} {values : List Byte}
    (h : (buf.get k).length + values.length = q.w) (hk : k.next = some k') :
    q.fillPlane k buf values = .scanlines { q with phase := .planes k' (buf.append k values) } := by
  simp only [Seq.fillPlane, PlaneBuf.get_append_same, List.length_append,
    if_neg (Nat.not_lt.2 (Nat.le_of_eq h.symm)), hk]

/-- Plane E is the last one, and ends the scanline (rule R135). -/
theorem Seq.fillPlane_full_last {buf : PlaneBuf} {values : List Byte}
    (h : (buf.get .e).length + values.length = q.w) :
    q.fillPlane .e buf values = q.finishRow (zipPlanes buf.r buf.g buf.b (buf.e ++ values)) := by
  simp only [Seq.fillPlane, PlaneBuf.get_append_same, List.length_append,
    if_neg (Nat.not_lt.2 (Nat.le_of_eq h.symm)), Plane.next]
  rfl

/-! ### The flat pixel (rule R136) -/

theorem Seq.takePixel_cut (hl : L < q.p + 4) (row : List Rgbe) (px : Rgbe) :
    q.takePixel L row px = q.raise ⟨.eofFlat, L⟩ := by
  rw [Seq.takePixel, if_pos hl]

theorem Seq.takePixel_joins (hl : q.p + 4 ≤ L) {row : List Rgbe} (h : row.length + 1 < q.w) (px : Rgbe) :
    q.takePixel L row px = .scanlines { q with p := q.p + 4, phase := .flat (row ++ [px]) } := by
  rw [Seq.takePixel, if_neg (Nat.not_lt.2 hl), if_pos h]

theorem Seq.takePixel_ends (hl : q.p + 4 ≤ L) {row : List Rgbe} (h : row.length + 1 = q.w) (px : Rgbe) :
    q.takePixel L row px = Seq.finishRow { q with p := q.p + 4 } (row ++ [px]) := by
  rw [Seq.takePixel, if_neg (Nat.not_lt.2 hl), if_neg (Nat.not_lt.2 (Nat.le_of_eq h.symm))]

end

/-! ### The statements about a token -/

section
variable {s : State} {inb : List Byte} {q : Seq}

/-- A marker where it is read. -/
theorem exec_marker (hj : s.Reading inb q) (hp : q.phase = .start) (hw : Config.rleEligible q.w = true)
    (h : BitVec 7) (l : BitVec 8) :
    exec (.scanlineMarker h l) s =
      .next (s.setStage inb (q.takeMarker inb.length (h.toNat * 256 + l.toNat))) :=
  State.atRowStart_of hj hp hw _

/-- A flat pixel where it is read. -/
theorem exec_pixel (hj : s.Reading inb q) {row : List Rgbe}
    (hp : (q.phase = .start ∧ row = []) ∨ q.phase = .flat row) (r g b e : Byte) :
    exec (.flatPixel r g b e) s = .next (s.setStage inb (q.takePixel inb.length row ⟨r, g, b, e⟩)) := by
  obtain ⟨hp, rfl⟩ | hp := hp
  · exact (exec_flatPixel r g b e s).trans (State.inRow_of_start hj hp _)
  · exact (exec_flatPixel r g b e s).trans (State.inRow_of_flat hj hp _)

/-- A packet that its plane and the input hold fills the plane. -/
theorem exec_packet_fits (hj : s.Reading inb q) {k : Plane} {buf : PlaneBuf}
    (hp : q.phase = .planes k buf) {i : Instr} (hi : i.isPacket = true)
    (hw : (buf.get k).length + (packetValues i).length ≤ q.w) (hl : q.p + i.size ≤ inb.length) :
    exec i s =
      .next (s.setStage inb (Seq.fillPlane { q with p := q.p + i.size } k buf (packetValues i))) := by
  rw [exec_packet hj hp hi, Seq.takePacket_fits hp hw hl]

/-- A packet that stays short of its plane's end. -/
theorem exec_packet_short_of_plane (hj : s.Reading inb q) {k : Plane} {buf : PlaneBuf}
    (hp : q.phase = .planes k buf) {i : Instr} (hi : i.isPacket = true)
    (hw : (buf.get k).length + (packetValues i).length < q.w) (hl : q.p + i.size ≤ inb.length) :
    exec i s = .next (s.setStage inb (.scanlines { q with
      p := q.p + i.size, phase := .planes k (buf.append k (packetValues i)) })) := by
  rw [exec_packet_fits hj hp hi (Nat.le_of_lt hw) hl,
    Seq.fillPlane_short (q := { q with p := q.p + i.size }) hw]

end

/-- Settles O29: the marker's width field is compared with W. -/
theorem markerOpensThePlanesOrFails : Obligations.MarkerOpensThePlanesOrFails := by
  intro s inb q h l hj hp hmin hmax hl
  rw [exec_marker hj hp (decide_eq_true ⟨hmin, hmax⟩)]
  refine ⟨fun hw => ?_, fun hw => ?_⟩
  · rw [Seq.takeMarker_opens hl hw]
    rfl
  · rw [Seq.takeMarker_fails hl hw]
    rfl

/-- Settles O30: a run is a packet of two bytes. -/
theorem runPacketFillsItsPlane : Obligations.RunPacketFillsItsPlane := by
  intro s inb q k buf n v hj hp hw hl
  exact exec_packet_short_of_plane (i := .rleRun n v) hj hp rfl
    (by rwa [packetValues, List.length_replicate]) hl

/-- Settles O31: a literal of either row is a packet of its count byte and its bytes. -/
theorem literalPacketFillsItsPlane : Obligations.LiteralPacketFillsItsPlane := by
  intro s inb q k buf bytes hj hp hw hl
  rw [Nat.add_assoc] at hl ⊢
  exact ⟨exec_packet_short_of_plane (i := .rleLiteral bytes) hj hp rfl hw hl,
    exec_packet_short_of_plane (i := .rleLiteral128 bytes) hj hp rfl hw hl⟩

/-- Settles O32: the guard of a packet tests the overrun before the input's end. -/
theorem packetOverrunComesBeforeEndOfInput : Obligations.PacketOverrunComesBeforeEndOfInput := by
  intro s inb q k buf i hj hp hi
  rw [exec_packet hj hp hi]
  refine ⟨fun hover => ?_, fun hw hl => ?_⟩
  · rw [Seq.takePacket_overrun _ _ hp hover]
    rfl
  · rw [Seq.takePacket_short hp hw hl]
    rfl

/-- Settles O33: a full plane is followed by the next one, and plane E by the end of the scanline. -/
theorem fullPlaneEndsAndPlaneEEndsTheScanline : Obligations.FullPlaneEndsAndPlaneEEndsTheScanline := by
  intro s inb q k buf i hj hp hi hfull hl
  rw [exec_packet_fits hj hp hi (Nat.le_of_eq hfull) hl]
  refine ⟨fun k' hk => ?_, ?_⟩
  · rw [Seq.fillPlane_full_next (q := { q with p := q.p + i.size }) hfull hk]
    rfl
  · rintro rfl row
    rw [Seq.fillPlane_full_last (q := { q with p := q.p + i.size }) hfull]
    refine ⟨fun hy => ?_, fun hy => ?_, fun hr hg hb => ⟨?_, fun x r g b e => getElem?_zipPlanes⟩⟩
    · rw [Seq.finishRow_next (q := { q with p := q.p + i.size }) hy]
      rfl
    · rw [Seq.finishRow_last (q := { q with p := q.p + i.size }) hy]
      rfl
    · exact length_zipPlanes hr hg hb (List.length_append.trans hfull)

/-- Settles O34: the pixel is cut short, joins its scanline, or is the last one of it. -/
theorem flatPixelJoinsItsScanline : Obligations.FlatPixelJoinsItsScanline := by
  intro s inb q row r g b e hj hp
  rw [exec_pixel hj hp]
  refine ⟨fun hl => ?_, fun hl hrow => ?_, fun hl hrow => ?_⟩
  · rw [Seq.takePixel_cut hl]
    rfl
  · rw [Seq.takePixel_joins hl hrow]
    rfl
  · rw [Seq.takePixel_ends hl hrow]
    refine ⟨fun hy => ?_, fun hy => ?_⟩
    · rw [Seq.finishRow_next (q := { q with p := q.p + 4 }) hy]
      rfl
    · rw [Seq.finishRow_last (q := { q with p := q.p + 4 }) hy]
      rfl

end Sys2Proof.Machine

/-! ## The exponent expansion is exact -/
namespace Sys2Proof.Machine

/-! ### The fields of a pattern below the sign bit (30_encoding.md rule R94) -/

theorem fractionField_ofNat (n : Nat) : fractionField (BitVec.ofNat 32 n) = n % 2 ^ 23 := by
  rw [fractionField, BitVec.extractLsb'_toNat, Nat.shiftRight_zero, BitVec.toNat_ofNat]
  omega

theorem exponentField_ofNat {n : Nat} (h : n < 2 ^ 31) :
    exponentField (BitVec.ofNat 32 n) = n / 2 ^ 23 := by
  rw [exponentField, BitVec.extractLsb'_toNat, BitVec.toNat_ofNat, Nat.shiftRight_eq_div_pow]
  omega

theorem signField_ofNat {n : Nat} (h : n < 2 ^ 31) : signField (BitVec.ofNat 32 n) = false := by
  rw [signField, BitVec.getLsbD_ofNat, Nat.testBit_lt_two_pow h, Bool.and_false]

/-- A pattern with exponent field 0 is its fraction in units: +0.0 or a subnormal. -/
theorem magOf_subnormal {m : Nat} (hm : m < 2 ^ 23) : magOf (BitVec.ofNat 32 m) = .fin m := by
  have hexp : exponentField (BitVec.ofNat 32 m) = 0 := by
    rw [exponentField_ofNat (by omega), Nat.div_eq_of_lt hm]
  simp only [magOf, finiteUnits, hexp, fractionField_ofNat, Nat.mod_eq_of_lt hm, if_true]
  rfl

/-- A pattern with exponent field `e + 1` is its 24-bit significand shifted by `e`. -/
theorem magOf_normal {e m : Nat} (he : e ≤ 253) (hm : m < 2 ^ 23) :
    magOf (BitVec.ofNat 32 (2 ^ 23 * (e + 1) + m)) = .fin ((2 ^ 23 + m) * 2 ^ e) := by
  have hexp : exponentField (BitVec.ofNat 32 (2 ^ 23 * (e + 1) + m)) = e + 1 := by
    rw [exponentField_ofNat (by omega)]
    omega
  have hfrac : fractionField (BitVec.ofNat 32 (2 ^ 23 * (e + 1) + m)) = m := by
    rw [fractionField_ofNat, Nat.mul_add_mod, Nat.mod_eq_of_lt hm]
  have hfinite : e + 1 ≠ 0xFF := by omega
  simp only [magOf, finiteUnits, hexp, hfrac, if_neg hfinite, if_neg e.succ_ne_zero,
    Nat.add_sub_cancel]

/-! ### The values that binary32 holds (00_scope.md rule R11) -/

/-- A finite value that binary32 holds: no bit below its 24 highest is set, and it is below `2^128`. -/
structure Representable (n : Nat) : Prop where
  kept : 2 ^ excess n ∣ n
  lt_overflow : n < overflow

/-- A value of `m` bits has at most `m - 24` excess bits. -/
theorem excess_le_of_lt {n m : Nat} (h : n < 2 ^ m) : excess n ≤ m - 24 := by
  rcases Nat.eq_zero_or_pos n with rfl | hpos
  · exact Nat.zero_le _
  · have hlog := (Nat.log2_lt (Nat.ne_of_gt hpos)).2 h
    unfold excess
    omega

theorem excess_le_of_lt_mul {n a b : Nat} (h : n < 2 ^ a * 2 ^ b) : excess n ≤ a + b - 24 := by
  rw [← Nat.pow_add] at h
  exact excess_le_of_lt h

theorem excess_of_lt {n : Nat} (h : n < 2 ^ 24) : excess n = 0 := Nat.le_zero.1 (excess_le_of_lt h)

/-- From `2^23` units on, what is left above the excess bits is a significand of 24 bits. -/
theorem significand_bounds {n : Nat} (hn : 2 ^ 23 ≤ n) :
    2 ^ 23 ≤ n / 2 ^ excess n ∧ n / 2 ^ excess n < 2 ^ 24 := by
  have hpos : n ≠ 0 := by omega
  have hlog : n.log2 = 23 + excess n := by
    have := (Nat.le_log2 hpos).2 hn
    unfold excess
    omega
  rw [Nat.le_div_iff_mul_le (Nat.two_pow_pos _), Nat.div_lt_iff_lt_mul (Nat.two_pow_pos _),
    ← Nat.pow_add, ← Nat.pow_add, ← Nat.le_log2 hpos, ← Nat.log2_lt hpos]
  omega

theorem roundEven_of_dvd {a b : Nat} (hb : 0 < b) (h : b ∣ a) : roundEven a b = a / b := by
  rw [roundEven, Nat.mod_eq_zero_of_dvd h, if_pos hb]

section
variable {n : Nat} (h : Representable n)
include h

/-- Such a value is not rounded. -/
theorem Representable.fl32_eq : fl32 n 1 = .fin n := by
  have hround : round32 n 1 = n := by
    rw [round32, Nat.div_one, Nat.one_mul, roundEven_of_dvd (Nat.two_pow_pos _) h.kept,
      Nat.div_mul_cancel h.kept]
  rw [fl32, hround, if_pos h.lt_overflow]

theorem Representable.excess_le : excess n ≤ 253 :=
  excess_le_of_lt_mul (a := 128) (b := 149) h.lt_overflow

/-- The pattern of such a value is one of a non-negative finite value. -/
theorem Representable.signField_bits32 : signField (bits32 (.fin n)) = false := by
  refine signField_ofNat ?_
  have hexcess := h.excess_le
  rcases Nat.lt_or_ge n (2 ^ 23) with hn | hn
  · rw [excess_of_lt (by omega)]
    omega
  · have hsig := significand_bounds hn
    omega

/-- The pattern of such a value is read as the value. -/
theorem Representable.magOf_bits32 : magOf (bits32 (.fin n)) = .fin n := by
  rcases Nat.lt_or_ge n (2 ^ 23) with hn | hn
  · have hpattern : 2 ^ 23 * excess n + n / 2 ^ excess n = n := by simp [excess_of_lt (n := n) (by omega)]
    rw [bits32, hpattern, magOf_subnormal hn]
  · obtain ⟨hmin, hmax⟩ := significand_bounds hn
    obtain ⟨m, hm⟩ := Nat.exists_eq_add_of_le hmin
    have hpattern : 2 ^ 23 * excess n + n / 2 ^ excess n = 2 ^ 23 * (excess n + 1) + m := by omega
    rw [bits32, hpattern, magOf_normal h.excess_le (by omega), ← hm, Nat.div_mul_cancel h.kept]

end

/-! ### The expansion (41_rgbe_decoder.md rules R137, R138) -/

/-- A byte has at most eight significant bits, and the exponent is small enough. -/
theorem representable_expansion (byte : Byte) {e : Nat} (he : e < 256) :
    Representable (byte.toNat * 2 ^ (e + 13)) := by
  have hlt : byte.toNat * 2 ^ (e + 13) < 2 ^ (e + 21) := by
    calc byte.toNat * 2 ^ (e + 13) < 2 ^ 8 * 2 ^ (e + 13) :=
          Nat.mul_lt_mul_of_pos_right byte.isLt (Nat.two_pow_pos _)
      _ = 2 ^ (e + 21) := by rw [← Nat.pow_add]; congr 1; omega
  have hexcess : excess (byte.toNat * 2 ^ (e + 13)) ≤ e + 13 :=
    Nat.le_trans (excess_le_of_lt hlt) (by omega)
  refine ⟨Nat.dvd_mul_left_of_dvd (Nat.pow_dvd_pow 2 hexcess) _, ?_⟩
  calc byte.toNat * 2 ^ (e + 13) < 2 ^ (e + 21) := hlt
    _ ≤ 2 ^ (128 + 149) := Nat.pow_le_pow_right (by decide) (by omega)
    _ = overflow := Nat.pow_add 2 128 149

theorem magOf_expandChannel (byte : Byte) {e : Nat} (he : e < 256) :
    magOf (expandChannel byte e) = .fin (byte.toNat * 2 ^ (e + 13)) := by
  have hrep := representable_expansion byte he
  rw [expandChannel, hrep.fl32_eq, hrep.magOf_bits32]

theorem signField_expandChannel (byte : Byte) {e : Nat} (he : e < 256) :
    signField (expandChannel byte e) = false := by
  have hrep := representable_expansion byte he
  rw [expandChannel, hrep.fl32_eq, hrep.signField_bits32]

theorem expand_of_ne_zero {px : Rgbe} (h : px.e ≠ 0#8) :
    expand px = ⟨expandChannel px.r px.e.toNat, expandChannel px.g px.e.toNat,
      expandChannel px.b px.e.toNat⟩ := if_neg h

theorem expand_of_zero {px : Rgbe} (h : px.e = 0#8) : expand px = ⟨0#32, 0#32, 0#32⟩ := if_pos h

/-- Settles O40: each channel is a value that binary32 holds. -/
theorem expansionIsExact : Obligations.ExpansionIsExact := by
  intro px
  have he : px.e.toNat < 256 := px.e.isLt
  refine ⟨expand_of_zero, fun h => ?_, ?_⟩
  · rw [expand_of_ne_zero h]
    exact ⟨magOf_expandChannel px.r he, magOf_expandChannel px.g he, magOf_expandChannel px.b he⟩
  · by_cases h : px.e = 0#8
    · rw [expand_of_zero h]
      exact ⟨rfl, rfl, rfl⟩
    · rw [expand_of_ne_zero h]
      exact ⟨signField_expandChannel px.r he, signField_expandChannel px.g he,
        signField_expandChannel px.b he⟩

end Sys2Proof.Machine

/-! ## The RGBM encoder -/
namespace Sys2Proof.Machine

/-! ### Rounding to an integer (00_scope.md rule R11) -/

/-- The rule AWAY in the form of `roundEven`: an exact half goes up. -/
theorem roundT_away (n : Nat) :
    roundT .away n = if 2 * (n % one) < one then n / one else n / one + 1 := by
  rw [roundT]
  unfold one
  split <;> omega

/-- What `roundEven` can answer: the integer below, up to an exact half, or the one above, from it. -/
theorem roundEven_cases (a b : Nat) :
    roundEven a b = a / b ∧ 2 * (a % b) ≤ b ∨ roundEven a b = a / b + 1 ∧ b ≤ 2 * (a % b) := by
  unfold roundEven
  split
  · exact .inl ⟨rfl, by omega⟩
  split
  · exact .inr ⟨rfl, by omega⟩
  split
  · exact .inl ⟨rfl, by omega⟩
  · exact .inr ⟨rfl, by omega⟩

theorem roundEven_bounds (a : Nat) {b : Nat} (hb : 0 < b) :
    2 * (roundEven a b * b) ≤ 2 * a + b ∧ 2 * a ≤ 2 * (roundEven a b * b) + b := by
  have hdiv := Nat.div_add_mod' a b
  have hmod := Nat.mod_lt a hb
  have hsucc := Nat.add_one_mul (a / b) b
  rcases roundEven_cases a b with ⟨hround, hhalf⟩ | ⟨hround, hhalf⟩
  · rw [hround]
    omega
  · rw [hround]
    omega

theorem roundT_bounds (tie : TieRule) (n : Nat) :
    2 * (roundT tie n * one) ≤ 2 * n + one ∧ 2 * n ≤ 2 * (roundT tie n * one) + one := by
  cases tie with
  | away => rw [roundT]; unfold one; omega
  | even => exact roundEven_bounds n (Nat.two_pow_pos _)

theorem div_le_roundEven (a b : Nat) : a / b ≤ roundEven a b := by
  have := roundEven_cases a b
  omega

theorem roundEven_mono {a a' b : Nat} (h : a ≤ a') : roundEven a b ≤ roundEven a' b := by
  rcases Nat.eq_or_lt_of_le h with rfl | hlt
  · exact Nat.le_refl _
  · have hcases := roundEven_cases a b
    have hcases' := roundEven_cases a' b
    rcases Nat.eq_or_lt_of_le (Nat.div_le_div_right (c := b) h) with heq | hquot
    · have hdiv := Nat.div_add_mod a b
      have hdiv' := Nat.div_add_mod a' b
      rw [heq] at hdiv
      omega
    · omega

theorem le_roundEven {a b c : Nat} (hb : 0 < b) (h : c * b ≤ a) : c ≤ roundEven a b :=
  Nat.le_trans ((Nat.le_div_iff_mul_le hb).2 h) (div_le_roundEven a b)

theorem roundEven_le {a b c : Nat} (hb : 0 < b) (h : a ≤ c * b) : roundEven a b ≤ c := by
  calc roundEven a b ≤ roundEven (c * b) b := roundEven_mono h
    _ = c := by rw [roundEven_of_dvd hb (Nat.dvd_mul_left b c), Nat.mul_div_cancel _ hb]

/-- Settles O47: the two rules differ in the one case of an exact half. -/
theorem tieRuleMattersOnlyAtAnExactHalf : Obligations.TieRuleMattersOnlyAtAnExactHalf := by
  refine ⟨fun n hn => ?_, fun k => ?_, by decide +kernel, by decide +kernel⟩
  · have haway := roundT_away n
    have heven : roundT .even n = roundEven n one := rfl
    have hcases := roundEven_cases n one
    rw [haway, heven]
    unfold one at *
    split <;> omega
  · have hmod : (k * one + one / 2) % one = one / 2 := by unfold one; omega
    have hdiv : (k * one + one / 2) / one = k := by unfold one; omega
    refine ⟨?_, ?_⟩
    · rw [roundT_away, hmod, hdiv]
      rfl
    · rw [roundT, roundEven, hmod, hdiv]
      rfl

/-! ### Rounding to binary32 (00_scope.md rule R11) -/

/-- A value with excess bits has a whole significand. -/
theorem two_pow_le_of_excess_pos {n : Nat} (h : 0 < excess n) : 2 ^ 23 * 2 ^ excess n ≤ n := by
  have hn : 2 ^ 23 ≤ n := by
    refine Nat.le_of_not_lt fun hlt => ?_
    rw [excess_of_lt (by omega)] at h
    exact Nat.lt_irrefl 0 h
  exact (Nat.le_div_iff_mul_le (Nat.two_pow_pos _)).1 (significand_bounds hn).1

/-- The last bit kept, also where every unit is kept. -/
theorem two_pow_excess_le (n : Nat) : 2 ^ 23 * 2 ^ excess n ≤ n + 2 ^ 23 := by
  rcases Nat.eq_zero_or_pos (excess n) with hzero | hpos
  · rw [hzero]
    omega
  · exact Nat.le_add_right_of_le (two_pow_le_of_excess_pos hpos)

/-- No more than 24 bits are kept. -/
theorem lt_two_pow_excess (n : Nat) : n < 2 ^ 24 * 2 ^ excess n := by
  rcases Nat.lt_or_ge n (2 ^ 23) with hn | hn
  · have := Nat.two_pow_pos (excess n)
    omega
  · exact (Nat.div_lt_iff_lt_mul (Nat.two_pow_pos _)).1 (significand_bounds hn).2

theorem excess_mono {n n' : Nat} (h : n ≤ n') : excess n ≤ excess n' := by
  rcases Nat.eq_zero_or_pos n with rfl | hpos
  · exact Nat.zero_le _
  · have hlog : n.log2 ≤ n'.log2 :=
      (Nat.le_log2 (by omega)).2 (Nat.le_trans (Nat.log2_self_le (by omega)) h)
    exact Nat.sub_le_sub_right hlog 23

/-- A value that binary32 holds is not rounded. -/
theorem round32_mul_right {b c : Nat} (hb : 0 < b) (hc : Representable c) : round32 (c * b) b = c := by
  have hdvd : b * 2 ^ excess c ∣ c * b := by
    rw [Nat.mul_comm c]
    exact Nat.mul_dvd_mul_left b hc.kept
  rw [round32, Nat.mul_div_cancel _ hb,
    roundEven_of_dvd (Nat.mul_pos hb (Nat.two_pow_pos _)) hdvd, Nat.mul_comm c,
    Nat.mul_div_mul_left _ _ hb, Nat.div_mul_cancel hc.kept]

theorem round32_mono {a a' b : Nat} (hb : 0 < b) (h : a ≤ a') : round32 a b ≤ round32 a' b := by
  have hq : a / b ≤ a' / b := Nat.div_le_div_right h
  unfold round32
  rcases Nat.eq_or_lt_of_le (excess_mono hq) with heq | hlt
  · rw [heq]
    exact Nat.mul_le_mul_right _ (roundEven_mono h)
  · have hpos : ∀ e : Nat, 0 < b * 2 ^ e := fun e => Nat.mul_pos hb (Nat.two_pow_pos e)
    have hupper : roundEven a (b * 2 ^ excess (a / b)) ≤ 2 ^ 24 := by
      refine roundEven_le (hpos _) ?_
      have := (Nat.div_lt_iff_lt_mul hb).1 (lt_two_pow_excess (a / b))
      rw [Nat.mul_comm b, ← Nat.mul_assoc]
      exact Nat.le_of_lt this
    have hlower : 2 ^ 23 ≤ roundEven a' (b * 2 ^ excess (a' / b)) := by
      refine le_roundEven (hpos _) ?_
      have := (Nat.le_div_iff_mul_le hb).1 (two_pow_le_of_excess_pos (Nat.zero_lt_of_lt hlt))
      rwa [Nat.mul_comm b, ← Nat.mul_assoc]
    calc roundEven a (b * 2 ^ excess (a / b)) * 2 ^ excess (a / b)
        ≤ 2 ^ 24 * 2 ^ excess (a / b) := Nat.mul_le_mul_right _ hupper
      _ = 2 ^ 23 * 2 ^ (excess (a / b) + 1) := by rw [Nat.pow_succ]; omega
      _ ≤ 2 ^ 23 * 2 ^ excess (a' / b) := Nat.mul_le_mul_left _ (Nat.pow_le_pow_right (by decide) hlt)
      _ ≤ roundEven a' (b * 2 ^ excess (a' / b)) * 2 ^ excess (a' / b) :=
        Nat.mul_le_mul_right _ hlower

theorem round32_le {a b c : Nat} (hb : 0 < b) (hc : Representable c) (h : a ≤ c * b) :
    round32 a b ≤ c :=
  round32_mul_right hb hc ▸ round32_mono hb h

theorem le_round32 {a b c : Nat} (hb : 0 < b) (hc : Representable c) (h : c * b ≤ a) :
    c ≤ round32 a b :=
  Nat.le_trans (Nat.le_of_eq (round32_mul_right hb hc).symm) (round32_mono hb h)

/-- The integers up to 255 are values that binary32 holds. -/
theorem representable_integer {k : Nat} (hk : k ≤ 255) : Representable (k * one) := by
  have := representable_expansion (BitVec.ofNat 8 k) (e := 136) (by decide)
  rwa [BitVec.toNat_ofNat, Nat.mod_eq_of_lt (by omega)] at this

theorem representable_one : Representable one :=
  Nat.one_mul one ▸ representable_integer (k := 1) (by decide)

theorem representable_unit : Representable 1 := ⟨by decide, by decide⟩

/-! ### The channels and the multiplier (42_rgbm_encoder.md rules R151 to R153) -/

theorem sanitize_zero : sanitize 0#32 = 0#32 := by decide

/-- Channels that sanitize to the same value are the same to the encoder. -/
theorem scaled_congr {u v : Word} (h : sanitize u = sanitize v) : scaled u = scaled v := by
  rw [scaled, h, scaled]

@[simp] theorem atMost_fin (n k : Nat) : (Mag.fin n).atMost k = min n k := rfl

theorem atMost_le (x : Mag) (k : Nat) : x.atMost k ≤ k := by
  cases x with
  | fin n => exact Nat.min_le_right n k
  | inf => exact Nat.le_refl k

theorem atMost_max (x y : Mag) (k : Nat) :
    (x.max y).atMost k = max (x.atMost k) (y.atMost k) :=
  match x, y with
  | .inf, y => (Nat.max_eq_left (atMost_le y k)).symm
  | .fin a, .inf => (Nat.max_eq_right (atMost_le (.fin a) k)).symm
  | .fin a, .fin b => by
    have hmax : (Mag.fin a).max (.fin b) = .fin (max a b) := rfl
    rw [hmax, atMost_fin, atMost_fin, atMost_fin]
    omega

/-- `a_raw` is the largest of the three channels, each cut at 1.0, and `EPS`. -/
theorem alphaRaw_eq (r g b : Mag) :
    alphaRaw r g b = max (max (r.atMost one) (g.atMost one)) (max (b.atMost one) eps) := by
  have heps : (Mag.fin eps).atMost one = eps := by decide
  rw [alphaRaw, atMost_max, atMost_max, atMost_max, heps]

theorem alphaRaw_swap_red_green (r g b : Mag) : alphaRaw g r b = alphaRaw r g b := by
  rw [alphaRaw_eq, alphaRaw_eq]
  omega

theorem alphaRaw_swap_green_blue (r g b : Mag) : alphaRaw r b g = alphaRaw r g b := by
  rw [alphaRaw_eq, alphaRaw_eq]
  omega

theorem eps_le_alphaRaw (r g b : Mag) : eps ≤ alphaRaw r g b := by
  rw [alphaRaw_eq]
  omega

theorem alphaRaw_le_one (r g b : Mag) : alphaRaw r g b ≤ one := atMost_le _ one

theorem atMost_le_alphaRaw (r g b : Mag) :
    r.atMost one ≤ alphaRaw r g b ∧ g.atMost one ≤ alphaRaw r g b ∧
    b.atMost one ≤ alphaRaw r g b := by
  rw [alphaRaw_eq]
  omega

/-- Settles O41: the encoder sees a channel only through `sanitize`. -/
theorem nanAndNegativeChannelsEncodeAsZero : Obligations.NanAndNegativeChannelsEncodeAsZero := by
  intro tie u v w
  have hiff : (exponentField u = 0xFF ∧ fractionField u ≠ 0) ∨ u.getLsbD 31 = true ↔
      isNaN u ∨ signField u := by simp only [isNaN, signField, decide_eq_true_eq]
  rw [hiff]
  refine ⟨fun h => ?_, fun h => if_neg h⟩
  have hs : scaled u = scaled 0#32 := scaled_congr ((if_pos h).trans sanitize_zero.symm)
  simp only [rgbmEncode, hs, and_self]

/-- Settles O42: the channels share `a_raw` only, which does not depend on their order. -/
theorem swappingChannelsSwapsTheirBytes : Obligations.SwappingChannelsSwapsTheirBytes := by
  intro tie u v w
  constructor
  · simp only [rgbmEncode, alphaRaw_swap_red_green (scaled u) (scaled v)]
  · simp only [rgbmEncode, alphaRaw_swap_green_blue _ (scaled v) (scaled w)]

/-- Settles O45: the three channels are +0.0 to the encoder. -/
theorem blackEncodesWithTheLeastMultiplier : Obligations.BlackEncodesWithTheLeastMultiplier := by
  intro tie u v w hu hv hw
  have hblack : rgbmEncode tie 0#32 0#32 0#32 = ⟨0#8, 0#8, 0#8, 1#8⟩ := by
    cases tie <;> decide +kernel
  rw [← hblack]
  simp only [rgbmEncode, scaled_congr (hu.trans sanitize_zero.symm),
    scaled_congr (hv.trans sanitize_zero.symm), scaled_congr (hw.trans sanitize_zero.symm)]

/-! ### The errors of the roundings, as rationals -/

/-- The rational value of `n` units of `2^-149`. -/
def valueOf (n : Nat) : Rat := n / 2 ^ 149

theorem valueOf_mul_pow (n : Nat) : valueOf n * 2 ^ 149 = n := by
  rw [valueOf, Rat.div_mul_cancel (by decide)]

theorem cast_mul_one (k : Nat) : ((k * one : Nat) : Rat) = k * 2 ^ 149 := by
  rw [Rat.natCast_mul, Rat.natCast_pow, Rat.natCast_ofNat]

theorem valueOf_mul_one (k : Nat) : valueOf (k * one) = k := by
  rw [valueOf, cast_mul_one, Rat.mul_div_cancel (by decide)]

theorem valueOf_zero : valueOf 0 = 0 := Nat.zero_mul one ▸ valueOf_mul_one 0

theorem valueOf_one : valueOf one = 1 := Nat.one_mul one ▸ valueOf_mul_one 1

theorem valueOf_255 : valueOf (255 * one) = 255 := valueOf_mul_one 255

theorem valueOf_mono {m n : Nat} (h : m ≤ n) : valueOf m ≤ valueOf n := by
  refine Rat.le_of_mul_le_mul_right (c := 2 ^ 149) ?_ (by decide)
  rw [valueOf_mul_pow, valueOf_mul_pow]
  exact Rat.natCast_le_natCast.2 h

theorem valueOf_nonneg (n : Nat) : 0 ≤ valueOf n :=
  valueOf_zero ▸ valueOf_mono (Nat.zero_le n)

theorem valueOf_le_one {n : Nat} (h : n ≤ one) : valueOf n ≤ 1 := valueOf_one ▸ valueOf_mono h

/-- Two rationals differ by at most `e`. -/
def Within (e x y : Rat) : Prop := x ≤ y + e ∧ y ≤ x + e

theorem Within.mono {e e' x y : Rat} (h : Within e x y) (he : e ≤ e') : Within e' x y := by
  obtain ⟨hup, hlow⟩ := h
  exact ⟨by grind, by grind⟩

/-- A factor of at most 1 does not widen a difference. -/
theorem Within.mul_right {e x y c : Rat} (h : Within e x y) (hc : 0 ≤ c) (hc1 : c ≤ 1) :
    Within e (x * c) (y * c) := by
  obtain ⟨hup, hlow⟩ := h
  have he : 0 ≤ e := by grind
  have hec : e * c ≤ e * 1 := Rat.mul_le_mul_of_nonneg_left hc1 he
  have hup' := Rat.mul_le_mul_of_nonneg_right hup hc
  have hlow' := Rat.mul_le_mul_of_nonneg_right hlow hc
  rw [Rat.add_mul] at hup' hlow'
  exact ⟨by grind, by grind⟩

/-- The error is at most half of the last bit kept: a part in `2^24`, or half a unit. -/
theorem round32_bounds (a : Nat) {b : Nat} (hb : 0 < b) :
    2 ^ 24 * (round32 a b * b) ≤ 2 ^ 24 * a + (a + 2 ^ 23 * b) ∧
    2 ^ 24 * a ≤ 2 ^ 24 * (round32 a b * b) + (a + 2 ^ 23 * b) := by
  have hlast : 2 ^ 23 * (b * 2 ^ excess (a / b)) ≤ a + 2 ^ 23 * b := by
    calc 2 ^ 23 * (b * 2 ^ excess (a / b)) = 2 ^ 23 * 2 ^ excess (a / b) * b := by
          rw [Nat.mul_comm b, Nat.mul_assoc]
      _ ≤ (a / b + 2 ^ 23) * b := Nat.mul_le_mul_right b (two_pow_excess_le _)
      _ ≤ a + 2 ^ 23 * b := by
        rw [Nat.add_mul]
        exact Nat.add_le_add_right (Nat.div_mul_le_self a b) _
  have hround : round32 a b * b =
      roundEven a (b * 2 ^ excess (a / b)) * (b * 2 ^ excess (a / b)) := by
    rw [round32, Nat.mul_assoc, Nat.mul_comm b]
  have hbounds := roundEven_bounds a (Nat.mul_pos hb (Nat.two_pow_pos (excess (a / b))))
  rw [hround]
  omega

/-- The same for `a / b = x · 2^149`, on the rationals: the divisor cancels. -/
theorem round32_bounds_rat {a b : Nat} {x : Rat} (hb : 0 < b) (ha : (a : Rat) = x * 2 ^ 149 * b) :
    2 ^ 24 * (round32 a b : Rat) ≤ 2 ^ 24 * (x * 2 ^ 149) + (x * 2 ^ 149 + 2 ^ 23) ∧
    2 ^ 24 * (x * 2 ^ 149) ≤ 2 ^ 24 * (round32 a b : Rat) + (x * 2 ^ 149 + 2 ^ 23) := by
  obtain ⟨hup, hlow⟩ := round32_bounds a hb
  have hb' : (0 : Rat) < b := Rat.natCast_pos.2 hb
  rw [← Rat.natCast_le_natCast] at hup hlow
  push_cast at hup hlow
  rw [ha] at hup hlow
  exact ⟨Rat.le_of_mul_le_mul_right (by grind) hb', Rat.le_of_mul_le_mul_right (by grind) hb'⟩

/-- An operation whose exact result is `x` up to 512 answers within `2^-14` of it. -/
theorem round32_error {a b : Nat} {x : Rat} (hb : 0 < b) (ha : (a : Rat) = x * 2 ^ 149 * b)
    (hx : x ≤ 512) : Within (1 / 2 ^ 14) (valueOf (round32 a b)) x := by
  obtain ⟨hup, hlow⟩ := round32_bounds_rat hb ha
  rw [← valueOf_mul_pow (round32 a b)] at hup hlow
  exact ⟨by grind, by grind⟩

theorem mul_error {x y : Nat} (h : valueOf x * valueOf y ≤ 512) :
    Within (1 / 2 ^ 14) (valueOf (round32 (x * y) one)) (valueOf x * valueOf y) := by
  refine round32_error (Nat.two_pow_pos 149) ?_ h
  have hone : ((one : Nat) : Rat) = 2 ^ 149 := by decide
  rw [Rat.natCast_mul, ← valueOf_mul_pow x, ← valueOf_mul_pow y, hone]
  grind

theorem div_error {x y : Nat} (hy : 0 < y) (h : valueOf x / valueOf y ≤ 512) :
    Within (1 / 2 ^ 14) (valueOf (round32 (x * one) y)) (valueOf x / valueOf y) := by
  refine round32_error hy ?_ h
  have hx := valueOf_mul_pow x
  have hne : valueOf y ≠ 0 := by
    intro hzero
    have hcast := valueOf_mul_pow y
    rw [hzero, Rat.zero_mul] at hcast
    have := Rat.natCast_pos.2 hy
    grind
  rw [cast_mul_one, ← valueOf_mul_pow x, ← valueOf_mul_pow y]
  have hquot := Rat.div_mul_cancel (a := valueOf x) hne
  grind

theorem roundT_error (tie : TieRule) (n : Nat) : Within (1 / 2) (roundT tie n) (valueOf n) := by
  obtain ⟨hup, hlow⟩ := roundT_bounds tie n
  rw [← Rat.natCast_le_natCast] at hup hlow
  push_cast at hup hlow
  rw [← valueOf_mul_pow n] at hup hlow
  exact ⟨by grind, by grind⟩

/-! ### Quantizing (42_rgbm_encoder.md rules R154 to R156) -/

/-- `x ⊗ 255.0` is at most 255. -/
theorem round32_mul_255_le {x : Nat} (hx : x ≤ one) : round32 (x * (255 * one)) one ≤ 255 * one :=
  round32_le (Nat.two_pow_pos 149) (representable_integer (Nat.le_refl 255))
    (by rw [Nat.mul_comm]; exact Nat.mul_le_mul_left _ hx)

/-- The clamps of R156 never act. -/
theorem toNat_quantize (tie : TieRule) {x : Nat} (hx : x ≤ one) :
    (quantize tie x).toNat = roundT tie (round32 (x * (255 * one)) one) := by
  have hround := round32_mul_255_le hx
  have hle : roundT tie (round32 (x * (255 * one)) one) ≤ 255 := by
    have := (roundT_bounds tie (round32 (x * (255 * one)) one)).1
    unfold one at *
    omega
  have hclamp : Nat.min (roundT tie (round32 (x * (255 * one)) one)) 255 = _ := Nat.min_eq_left hle
  rw [quantize, BitVec.toNat_ofNat, hclamp, Nat.mod_eq_of_lt (by omega)]

theorem quantize_error (tie : TieRule) {x : Nat} (hx : x ≤ one) :
    Within (1 / 2 + 1 / 2 ^ 14) (quantize tie x).toNat (255 * valueOf x) := by
  have hvalue := valueOf_le_one hx
  have hmul : Within (1 / 2 ^ 14) (valueOf (round32 (x * (255 * one)) one))
      (valueOf x * valueOf (255 * one)) :=
    mul_error (by rw [valueOf_255]; grind)
  rw [valueOf_255] at hmul
  obtain ⟨hup, hlow⟩ := hmul
  obtain ⟨hup', hlow'⟩ := roundT_error tie (round32 (x * (255 * one)) one)
  rw [toNat_quantize tie hx]
  exact ⟨by grind, by grind⟩

/-- A value near enough to `k / 255` is quantized to `k` by either tie rule. -/
theorem quantize_eq (tie : TieRule) {x k : Nat} (hx : x ≤ one)
    (hk : Within (1 / 4) (255 * valueOf x) k) : (quantize tie x).toNat = k := by
  obtain ⟨hup, hlow⟩ := hk
  obtain ⟨hup', hlow'⟩ := quantize_error tie hx
  have hlt : ((quantize tie x).toNat : Rat) < (k + 1 : Nat) := by
    rw [Rat.natCast_add]
    grind
  have hgt : (k : Rat) < ((quantize tie x).toNat + 1 : Nat) := by
    rw [Rat.natCast_add]
    grind
  rw [Rat.natCast_lt_natCast] at hlt hgt
  omega

theorem ceilUnits_bounds {n : Nat} (hn : 0 < n) :
    n ≤ ceilUnits n * one ∧ (ceilUnits n - 1) * one < n := by
  unfold ceilUnits one
  omega

theorem ceilUnits_le {n k : Nat} (h : n ≤ k * one) : ceilUnits n ≤ k := by
  unfold ceilUnits one at *
  omega

theorem ceilUnits_pos {n : Nat} (hn : 0 < n) : 1 ≤ ceilUnits n := by
  unfold ceilUnits one
  omega

/-- `alpha` for a step `k` of 1 to 255. -/
theorem alphaOf_error {k : Nat} (hk : k ≤ 255) : Within (1 / 2 ^ 14) (valueOf (alphaOf k)) (k / 255) := by
  have hk' : (k : Rat) ≤ 255 := Rat.natCast_le_natCast.2 hk
  have h := div_error (x := k * one) (y := 255 * one) (by decide)
    (by rw [valueOf_mul_one, valueOf_255]; grind)
  rwa [valueOf_mul_one, valueOf_255] at h

theorem alphaOf_le_one {k : Nat} (hk : k ≤ 255) : alphaOf k ≤ one :=
  round32_le (by decide) representable_one (by
    rw [Nat.mul_comm one]
    exact Nat.mul_le_mul_right _ (Nat.mul_le_mul_right _ hk))

/-- `t = a_raw ⊗ 255.0` is positive. -/
theorem alphaStep_operand_pos {a : Nat} (hmin : eps ≤ a) : 0 < round32 (a * (255 * one)) one := by
  have heps : 1 * one ≤ eps * (255 * one) := by decide
  exact le_round32 (Nat.two_pow_pos 149) representable_unit
    (Nat.le_trans heps (Nat.mul_le_mul_right _ hmin))

theorem alphaStep_le {a : Nat} (hmax : a ≤ one) : alphaStep a ≤ 255 :=
  ceilUnits_le (round32_mul_255_le hmax)

theorem alphaStep_pos {a : Nat} (hmin : eps ≤ a) : 1 ≤ alphaStep a :=
  ceilUnits_pos (alphaStep_operand_pos hmin)

/-- The multiplier byte is `k`, because `alpha` is near enough to `k / 255`. -/
theorem toNat_quantize_alphaOf (tie : TieRule) {k : Nat} (hk : k ≤ 255) :
    (quantize tie (alphaOf k)).toNat = k := by
  refine quantize_eq tie (alphaOf_le_one hk) ?_
  obtain ⟨hup, hlow⟩ := alphaOf_error hk
  exact ⟨by grind, by grind⟩

/-- Settles O43: the multiplier byte is `k`, and `k` is the ceiling of a positive `t` up to 255. -/
theorem multiplierByteIsTheCeilingStep : Obligations.MultiplierByteIsTheCeilingStep := by
  intro tie u v w a k
  have hmax : alphaStep a ≤ 255 := alphaStep_le (alphaRaw_le_one _ _ _)
  have hpos := alphaStep_operand_pos (eps_le_alphaRaw (scaled u) (scaled v) (scaled w))
  have hk : k = alphaStep a := toNat_quantize_alphaOf tie hmax
  obtain ⟨hle, hlt⟩ := ceilUnits_bounds hpos
  rw [hk]
  exact ⟨rfl, ceilUnits_pos hpos, hmax, hle, hlt⟩

/-! ### Patterns below the sign bit (30_encoding.md rule R94) -/

theorem fractionField_eq (u : Word) : fractionField u = u.toNat % 2 ^ 23 := by
  simpa using fractionField_ofNat u.toNat

theorem exponentField_eq {u : Word} (h : u.toNat < 2 ^ 31) : exponentField u = u.toNat / 2 ^ 23 := by
  simpa using exponentField_ofNat h

theorem signField_eq {u : Word} (h : u.toNat < 2 ^ 31) : signField u = false := by
  simpa using signField_ofNat h

/-- The patterns of the values that are not negative stand in the order of the values. -/
theorem finiteUnits_mono {u v : Word} (huv : u.toNat ≤ v.toNat) (hv : v.toNat < 2 ^ 31) :
    finiteUnits u ≤ finiteUnits v := by
  have hfu : fractionField u < 2 ^ 23 := by rw [fractionField_eq]; omega
  have hexp : exponentField u < exponentField v ∨
      exponentField u = exponentField v ∧ fractionField u ≤ fractionField v := by
    rw [exponentField_eq (Nat.lt_of_le_of_lt huv hv), exponentField_eq hv, fractionField_eq,
      fractionField_eq]
    omega
  unfold finiteUnits
  rcases hexp with hlt | ⟨heq, hle⟩
  · rw [if_neg (Nat.ne_zero_of_lt hlt)]
    have hlow : 2 ^ 23 * 2 ^ (exponentField v - 1) ≤
        (2 ^ 23 + fractionField v) * 2 ^ (exponentField v - 1) :=
      Nat.mul_le_mul_right _ (Nat.le_add_right _ _)
    refine Nat.le_trans ?_ hlow
    split
    · exact Nat.le_trans (Nat.le_of_lt hfu) (Nat.le_mul_of_pos_right _ (Nat.two_pow_pos _))
    · calc (2 ^ 23 + fractionField u) * 2 ^ (exponentField u - 1)
          ≤ 2 ^ 23 * 2 * 2 ^ (exponentField u - 1) := Nat.mul_le_mul_right _ (by omega)
        _ = 2 ^ 23 * 2 ^ (exponentField u - 1 + 1) := by rw [Nat.mul_assoc, ← Nat.pow_succ']
        _ ≤ 2 ^ 23 * 2 ^ (exponentField v - 1) :=
          Nat.mul_le_mul_left _ (Nat.pow_le_pow_right (by decide) (by omega))
  · rw [heq]
    split
    · exact hle
    · exact Nat.mul_le_mul_right _ (Nat.add_le_add_left hle _)

/-- A pattern up to +∞ is no NaN and has no sign. -/
theorem sanitize_of_le {u : Word} (h : u.toNat ≤ 0x7F800000) : sanitize u = u := by
  have hsign : signField u = false := signField_eq (by omega)
  have hnan : isNaN u = false := by
    rw [isNaN, decide_eq_false_iff_not, exponentField_eq (by omega), fractionField_eq]
    omega
  rw [sanitize, hsign, hnan]
  rfl

theorem finiteUnits_six : finiteUnits 0x40C00000#32 = 6 * one := by decide

/-- `K6` is above 1/6 by a part in `2^25`. -/
theorem valueOf_k6 : valueOf k6 = (1 + 1 / 2 ^ 25) / 6 := by decide +kernel

theorem fl32_atMost_one (a b : Nat) : (fl32 a b).atMost one = min (round32 a b) one := by
  have : one ≤ overflow := by decide
  unfold fl32
  split
  · rfl
  · exact (Nat.min_eq_right (Nat.le_trans this (Nat.le_of_not_lt ‹_›))).symm

/-! ### Saturation (42_rgbm_encoder.md rule R158) -/

/-- `6.0 ⊗ K6 = 1.0`, and a greater channel is scaled to no less. -/
theorem scaled_atMost_one_of_ge_six {u : Word} (hmin : 0x40C00000 ≤ u.toNat)
    (hmax : u.toNat ≤ 0x7F800000) : (scaled u).atMost one = one := by
  rw [scaled, sanitize_of_le hmax, magOf]
  split
  · rfl
  · have hsix : 6 * one ≤ finiteUnits u :=
      finiteUnits_six ▸ finiteUnits_mono hmin (Nat.lt_of_le_of_lt hmax (by decide))
    have hle : one * one ≤ finiteUnits u * k6 := by
      calc one * one ≤ 6 * one * k6 := by decide
        _ ≤ finiteUnits u * k6 := Nat.mul_le_mul_right _ hsix
    rw [Mag.times, fl32_atMost_one]
    exact Nat.min_eq_right (le_round32 (Nat.two_pow_pos 149) representable_one hle)

theorem alphaRaw_of_red_saturated {r : Mag} (h : r.atMost one = one) (g b : Mag) :
    alphaRaw r g b = one :=
  Nat.le_antisymm (alphaRaw_le_one r g b) (h ▸ (atMost_le_alphaRaw r g b).1)

theorem alphaOf_alphaStep_one : alphaOf (alphaStep one) = one := by decide

theorem normalised_one {s : Mag} (h : s.atMost one = one) : normalised s one = one := by
  cases s with
  | inf => rfl
  | fin n =>
    have hn : one ≤ n := h ▸ Nat.min_le_left n one
    rw [normalised, Mag.over, fl32_atMost_one]
    exact Nat.min_eq_right
      (le_round32 (Nat.two_pow_pos 149) representable_one (Nat.mul_le_mul_right _ hn))

theorem quantize_one (tie : TieRule) : quantize tie one = 255#8 := by
  refine BitVec.eq_of_toNat_eq (quantize_eq tie (Nat.le_refl one) ?_)
  have hbyte : ((255#8).toNat : Rat) = 255 := rfl
  rw [valueOf_one, hbyte]
  exact ⟨by grind, by grind⟩

theorem red_of_six_or_more_saturates (tie : TieRule) {u : Word} (v w : Word)
    (h : (scaled u).atMost one = one) :
    (rgbmEncode tie u v w).m = 255#8 ∧ (rgbmEncode tie u v w).r = 255#8 := by
  simp only [rgbmEncode, alphaRaw_of_red_saturated h, alphaOf_alphaStep_one, normalised_one h,
    quantize_one, and_self]

/-- Settles O44: for red, and for the others by the swaps of R161. -/
theorem channelsOfSixOrMoreSaturate : Obligations.ChannelsOfSixOrMoreSaturate := by
  intro tie u v w hmin hmax
  obtain ⟨hm, hr⟩ :=
    red_of_six_or_more_saturates tie v w (scaled_atMost_one_of_ge_six hmin hmax)
  rw [(swappingChannelsSwapsTheirBytes tie v u w).2, (swappingChannelsSwapsTheirBytes tie u v w).1]
  exact ⟨hm, hr, hm, hr, hm, hr⟩

/-! ### The round trip (42_rgbm_encoder.md rule R160) -/

section
variable {n : Nat} (hn : n ≤ 6 * one)
include hn

theorem round32_k6_le_one : round32 (n * k6) one ≤ one := by
  have hsix : round32 (6 * one * k6) one = one := by decide
  exact Nat.le_trans (round32_mono (Nat.two_pow_pos 149) (Nat.mul_le_mul_right _ hn)) (Nat.le_of_eq hsix)

/-- A channel in `[0, 6]` is scaled to `[0, 1]`. -/
theorem times_k6 : (Mag.fin n).times k6 = .fin (round32 (n * k6) one) :=
  if_pos (Nat.lt_of_le_of_lt (round32_k6_le_one hn) (by decide))

theorem times_k6_error : Within (1 / 2 ^ 13) (valueOf (round32 (n * k6) one)) (valueOf n / 6) := by
  have hvalue : valueOf n ≤ (6 : Nat) := valueOf_mul_one 6 ▸ valueOf_mono hn
  have hpos := valueOf_nonneg n
  have h := mul_error (x := n) (y := k6) (by rw [valueOf_k6]; grind)
  rw [valueOf_k6] at h
  obtain ⟨hup, hlow⟩ := h
  exact ⟨by grind, by grind⟩

end

/-- `k` is at least `255 · a_raw` but for the rounding of `t`. -/
theorem le_alphaStep {a : Nat} (hmin : eps ≤ a) (hmax : a ≤ one) :
    255 * valueOf a ≤ alphaStep a + 1 / 2 ^ 14 := by
  have hvalue := valueOf_le_one hmax
  have h := mul_error (x := a) (y := 255 * one) (by rw [valueOf_255]; grind)
  have hle := valueOf_mono (ceilUnits_bounds (alphaStep_operand_pos hmin)).1
  rw [valueOf_255] at h
  rw [valueOf_mul_one] at hle
  obtain ⟨-, hlow⟩ := h
  rw [alphaStep]
  grind

/-- The division alone: `q · alpha` is `s`, but for the rounding. -/
theorem div_mul_error {s alpha : Nat} (hs : s ≤ one) (hmin : 1 / 512 ≤ valueOf alpha)
    (hmax : valueOf alpha ≤ 1) :
    Within (1 / 2 ^ 14) (valueOf (round32 (s * one) alpha) * valueOf alpha) (valueOf s) := by
  have hpos : 0 < valueOf alpha := by grind
  have halpha : 0 < alpha := by
    refine Nat.pos_of_ne_zero fun hzero => ?_
    rw [hzero, valueOf_zero] at hpos
    exact Rat.lt_irrefl hpos
  have hs1 := valueOf_le_one hs
  have hcancel : valueOf s / valueOf alpha * valueOf alpha = valueOf s :=
    Rat.div_mul_cancel (by grind)
  have hquot : valueOf s / valueOf alpha ≤ 512 := by
    refine Rat.le_of_mul_le_mul_right ?_ hpos
    rw [hcancel]
    grind
  have := (div_error halpha hquot).mul_right (by grind) hmax
  rwa [hcancel] at this

/-- The cut of `q` at 1.0 takes away no more than the roundings before it have added. -/
theorem normalised_error {s alpha : Nat} (hs : s ≤ one) (hmin : 1 / 512 ≤ valueOf alpha)
    (hmax : valueOf alpha ≤ 1) (hle : valueOf s ≤ valueOf alpha + 1 / 2 ^ 13) :
    Within (1 / 2 ^ 13) (valueOf (normalised (.fin s) alpha) * valueOf alpha) (valueOf s) := by
  have hdiv := div_mul_error hs hmin hmax
  rw [normalised, Mag.over, fl32_atMost_one]
  rcases Nat.le_total (round32 (s * one) alpha) one with hcut | hcut
  · rw [Nat.min_eq_left hcut]
    exact hdiv.mono (by grind)
  · have hone : 1 * valueOf alpha ≤ valueOf (round32 (s * one) alpha) * valueOf alpha :=
      Rat.mul_le_mul_of_nonneg_right (valueOf_one ▸ valueOf_mono hcut) (by grind)
    obtain ⟨hup, -⟩ := hdiv
    rw [Nat.min_eq_right hcut, valueOf_one]
    exact ⟨by grind, by grind⟩

/-- The errors of `s`, `q`, `alpha` and the byte add up: `c - o·k` is
`(c - s) + (s - q·alpha) + q·(alpha - k) + (q - o)·k`, for `c` in units of 6.0 and bytes over 255. -/
theorem reconstruction_error {c s q alpha k o : Rat} (hs : Within (1 / 2 ^ 13) s c)
    (hq : Within (1 / 2 ^ 13) (q * alpha) s) (hk : Within (1 / 2 ^ 13) alpha k)
    (ho : Within (3 / 4 / 255) o q) (hq0 : 0 ≤ q) (hq1 : q ≤ 1) (hk0 : 0 ≤ k) (hk1 : k ≤ 1) :
    Within (1 / 255) c (o * k) := by
  obtain ⟨hsup, hslow⟩ := hs
  obtain ⟨hqup, hqlow⟩ := hq
  obtain ⟨hkup, hklow⟩ := hk.mul_right hq0 hq1
  obtain ⟨houp, holow⟩ := ho.mul_right hk0 hk1
  exact ⟨by grind, by grind⟩

/-- The reconstruction of a channel from any `a_raw` not below it, in units of 6.0. -/
theorem channel_error (tie : TieRule) {n a : Nat} (hn : n ≤ 6 * one)
    (hle : round32 (n * k6) one ≤ a) (hmin : eps ≤ a) (hmax : a ≤ one) :
    Within (1 / 255) (valueOf n / 6)
      ((quantize tie (normalised (.fin (round32 (n * k6) one)) (alphaOf (alphaStep a)))).toNat / 255 *
        (alphaStep a / 255)) := by
  have hk := alphaStep_le hmax
  have hk1 : (1 : Rat) ≤ alphaStep a := Rat.natCast_le_natCast.2 (alphaStep_pos hmin)
  have hk255 : (alphaStep a : Rat) ≤ 255 := Rat.natCast_le_natCast.2 hk
  have halpha := alphaOf_error hk
  have hs := valueOf_mono hle
  have hstep := le_alphaStep hmin hmax
  have hq1 : normalised (.fin (round32 (n * k6) one)) (alphaOf (alphaStep a)) ≤ one := atMost_le _ one
  have hobyte := quantize_error tie hq1
  have hq : Within (1 / 2 ^ 13) (valueOf (normalised (.fin (round32 (n * k6) one))
      (alphaOf (alphaStep a))) * valueOf (alphaOf (alphaStep a))) (valueOf (round32 (n * k6) one)) := by
    obtain ⟨-, hlow⟩ := halpha
    exact normalised_error (round32_k6_le_one hn) (by grind) (valueOf_le_one (alphaOf_le_one hk))
      (by grind)
  refine reconstruction_error (times_k6_error hn) hq (halpha.mono (by grind)) ?_
    (valueOf_nonneg _) (valueOf_le_one hq1) (by grind) (by grind)
  obtain ⟨hup, hlow⟩ := hobyte
  exact ⟨by grind, by grind⟩

/-- The bound multiplied out by `6 · 255 · 255` and by the units of 1.0. -/
theorem withinRoundTripBound_of_error {n : Nat} {o m : Byte}
    (h : Within (1 / 255) (valueOf n / 6) (o.toNat / 255 * (m.toNat / 255))) :
    WithinRoundTripBound n o m := by
  obtain ⟨hup, hlow⟩ := h
  have hn := valueOf_mul_pow n
  have hupper : n * 65025 ≤ 6 * (o.toNat * m.toNat) * one + 6 * 255 * one := by
    rw [← Rat.natCast_le_natCast]
    push_cast
    grind
  have hlower : 6 * (o.toNat * m.toNat) * one ≤ n * 65025 + 6 * 255 * one := by
    rw [← Rat.natCast_le_natCast]
    push_cast
    grind
  unfold WithinRoundTripBound one at *
  omega

theorem scaled_of_le_six {u : Word} (h : u.toNat ≤ 0x40C00000) :
    scaled u = (Mag.fin (finiteUnits u)).times k6 := by
  have hexp : exponentField u ≠ 0xFF := by
    rw [exponentField_eq (Nat.lt_of_le_of_lt h (by decide))]
    omega
  rw [scaled, sanitize_of_le (Nat.le_trans h (by decide)), magOf, if_neg hexp]

theorem scaled_minus_zero :
    scaled 0x80000000#32 = (Mag.fin (finiteUnits 0x80000000#32)).times k6 := by decide

theorem finiteUnits_minus_zero : finiteUnits 0x80000000#32 = 0 := by decide

/-- The channels of R160 are scaled from their units: they are not sanitized, but for −0. -/
theorem scaled_of_inZeroToSix {u : Word} (hu : InZeroToSix u) :
    scaled u = (Mag.fin (finiteUnits u)).times k6 := by
  obtain hle | rfl := hu
  · exact scaled_of_le_six hle
  · exact scaled_minus_zero

theorem finiteUnits_of_inZeroToSix {u : Word} (hu : InZeroToSix u) : finiteUnits u ≤ 6 * one := by
  obtain hle | rfl := hu
  · exact finiteUnits_six ▸ finiteUnits_mono hle (by decide)
  · exact finiteUnits_minus_zero ▸ Nat.zero_le _

theorem channel_withinRoundTripBound (tie : TieRule) {u : Word} (hu : InZeroToSix u) {a : Nat}
    (hle : (scaled u).atMost one ≤ a) (hmin : eps ≤ a) (hmax : a ≤ one) :
    WithinRoundTripBound (finiteUnits u)
      (quantize tie (normalised (scaled u) (alphaOf (alphaStep a))))
      (quantize tie (alphaOf (alphaStep a))) := by
  have hn := finiteUnits_of_inZeroToSix hu
  have hscaled : scaled u = .fin (round32 (finiteUnits u * k6) one) :=
    (scaled_of_inZeroToSix hu).trans (times_k6 hn)
  have hcut : (scaled u).atMost one = round32 (finiteUnits u * k6) one := by
    rw [hscaled, atMost_fin, Nat.min_eq_left (round32_k6_le_one hn)]
  refine withinRoundTripBound_of_error ?_
  rw [toNat_quantize_alphaOf tie (alphaStep_le hmax), hscaled]
  exact channel_error tie hn (hcut ▸ hle) hmin hmax

/-- Settles O46: `a_raw` is not below any of the three channels. -/
theorem roundTripErrorIsAtMostSixOver255 : Obligations.RoundTripErrorIsAtMostSixOver255 := by
  intro tie u v w hu hv hw
  obtain ⟨hru, hrv, hrw⟩ := atMost_le_alphaRaw (scaled u) (scaled v) (scaled w)
  have hmin := eps_le_alphaRaw (scaled u) (scaled v) (scaled w)
  have hmax := alphaRaw_le_one (scaled u) (scaled v) (scaled w)
  exact ⟨channel_withinRoundTripBound tie hu hru hmin hmax,
    channel_withinRoundTripBound tie hv hrv hmin hmax,
    channel_withinRoundTripBound tie hw hrw hmin hmax⟩

end Sys2Proof.Machine

/-! ## The pixel pipeline and the TGA writer

`tgaWrite_pixelApply` says that the pipeline and the writer together give `imageResult`; what stands here is
where the bytes of `imageFile` are, and what the writer's own hidden step does. -/
namespace Sys2Proof.Machine

/-! ### The file's bytes (43_pipeline_tga.md rules R175, R176) -/

/-- Of lists of `n` elements one after the other, an element of the one numbered `i`. -/
theorem getElem?_flatMap_of_length_eq {α β : Type} {f : α → List β} {n i j : Nat} {l : List α} {a : α}
    (hf : ∀ x, (f x).length = n) (ha : l[i]? = some a) (hj : j < n) :
    (l.flatMap f)[n * i + j]? = (f a)[j]? := by
  induction l generalizing i with
  | nil => cases ha
  | cons x l ih =>
    rw [List.flatMap_cons]
    cases i with
    | zero =>
      obtain rfl : x = a := Option.some.inj ha
      rw [Nat.mul_zero, Nat.zero_add, List.getElem?_append_left ((hf x).symm ▸ hj)]
    | succ i =>
      have hskip : n * (i + 1) + j = (f x).length + (n * i + j) := by rw [hf, Nat.mul_succ]; omega
      rw [hskip, List.getElem?_append_right (Nat.le_add_right _ _), Nat.add_sub_cancel_left]
      exact ih ha

theorem length_imageFile (tie : TieRule) {img : HdrImage} (hr : img.raster.length = img.w * img.h) :
    (imageFile tie img).length = tgaSize img.w img.h := by
  rw [imageFile, List.length_append, length_tgaHeader,
    length_flatMap_of_length_eq fun c _ => length_pixelBytes tie c, hr, Nat.mul_comm, ← Nat.mul_assoc]
  rfl

theorem take_imageFile (tie : TieRule) (img : HdrImage) :
    (imageFile tie img).take 18 = tgaHeader img.w img.h :=
  List.take_left' (length_tgaHeader img.w img.h)

/-- The bytes b, g, r, m of the pixel numbered `i` stand behind the header and the pixels before it. -/
theorem getElem?_imageFile (tie : TieRule) {img : HdrImage} {i j : Nat} {c : Rgb}
    (hc : img.raster[i]? = some c) (hj : j < 4) :
    (imageFile tie img)[18 + 4 * i + j]? = (pixelBytes tie c)[j]? := by
  rw [imageFile, Nat.add_assoc, ← length_tgaHeader img.w img.h,
    List.getElem?_append_right (Nat.le_add_right _ _), Nat.add_sub_cancel_left]
  exact getElem?_flatMap_of_length_eq (length_pixelBytes tie) hc hj

theorem imageResult_of_le_outCap {p : Params} {img : HdrImage} (h : tgaSize img.w img.h ≤ p.outCap) :
    imageResult p img = .ok (imageFile p.tie img) :=
  if_neg (Nat.not_lt.2 h)

/-- Settles O49: the writer gives `imageFile`, whose pixels follow the header four bytes each. -/
theorem fileHoldsEachPixelAtItsPlace : Obligations.FileHoldsEachPixelAtItsPlace := by
  intro p seed img hp hr hfits
  refine ⟨imageFile p.tie img, ?_, length_imageFile p.tie hr, take_imageFile p.tie img, ?_⟩
  · rw [tgaWrite_pixelApply hp seed hr, imageResult_of_le_outCap hfits]
  · intro x y c _ _ hc
    have hbyte {j : Nat} (hj : j < 4) := getElem?_imageFile p.tie hc hj
    exact ⟨hbyte (by decide), hbyte (by decide), hbyte (by decide), hbyte (by decide)⟩

/-! ### What cannot be seen in the file (rules R171, R172; 60_exceptions.md rule R214) -/

/-- Of an instance's parameters the result of an image depends on `OUT_CAP` and `TIE_RULE` alone. -/
theorem imageResult_congr {p p' : Params} (hcap : p'.outCap = p.outCap) (htie : p'.tie = p.tie)
    (img : HdrImage) : imageResult p' img = imageResult p img := by
  rw [imageResult, imageResult, hcap, htie]

/-- Settles O51: both instances give `imageResult`. -/
theorem workersAndStrideAreUnobservable : Obligations.WorkersAndStrideAreUnobservable := by
  intro p p' seed seed' img hp hp' hcap htie hr
  rw [tgaWrite_pixelApply hp' seed' hr, tgaWrite_pixelApply hp seed hr, imageResult_congr hcap htie]

/-! ### The writer's hidden step (rules R175, R177) -/

theorem tick_packed {s : State} {inb : List Byte} {pk : PackedImage}
    (hj : s.job = some (.run inb (.packed pk))) :
    tick s = .next (s.setStage inb (writeStage s.params pk)) := by
  simp only [tick, hj]

theorem writeStage_of_outCap_lt {p : Params} {pk : PackedImage} (h : p.outCap < tgaSize pk.w pk.h) :
    writeStage p pk = .failed (some (pk.w, pk.h)) ⟨.outCapacity, 0⟩ := by
  rw [writeStage, tgaWrite, if_pos h]

theorem writeStage_of_le_outCap {p : Params} {pk : PackedImage} (h : tgaSize pk.w pk.h ≤ p.outCap) :
    ∃ file, writeStage p pk = .written pk.w pk.h file := by
  rw [writeStage, tgaWrite, if_neg (Nat.not_lt.2 h)]
  exact ⟨_, rfl⟩

/-- Settles O50: the capacity is tested against the size of the file before any byte is written. -/
theorem fileTooLargeForOutFails : Obligations.FileTooLargeForOutFails := by
  intro s inb pk hj
  rw [tick_packed hj]
  constructor
  · intro hlarge
    rw [writeStage_of_outCap_lt hlarge]
    rfl
  · intro hfits
    obtain ⟨file, hfile⟩ := writeStage_of_le_outCap hfits
    exact ⟨file, by rw [hfile]; rfl⟩

end Sys2Proof.Machine

/-! ## The entry of a failure, the words of its report, and the interrupt -/
namespace Sys2Proof.Machine

/-! ### The report of a failure (60_exceptions.md rules R190, R191, R193) -/

/-- ERRINFO is the sum of its three codes in their places, row by row of rule R191's table. -/
theorem Detail.toNat_errinfo (d : Detail) :
    d.errinfo.toNat = d.kind.code + 16 * d.stage + 256 * d.code := by
  cases d <;> rfl

/-- OUT_CAPACITY is the one error of the writer. -/
theorem Detail.stage_eq (d : Detail) : d.stage = if d = .outCapacity then 3 else 1 := by
  cases d <;> rfl

/-- Settles O24: the eleven words are computed, and `Detail.all` lists every detail. -/
theorem reportsAreTheTableOfRuleR191 : Obligations.ReportsAreTheTableOfRuleR191 :=
  ⟨rfl, rfl, rfl, rfl, rfl, rfl, rfl, rfl, rfl, rfl, rfl, Detail.mem_all⟩

/-- Settles O23: the completion is `State.fail`, whose ERRINFO is the word of the failure's detail. -/
theorem failingRunEntersTheFailureState : Obligations.FailingRunEntersTheFailureState := by
  intro s inb dims why hj
  refine ⟨s.fail dims why, complete_failed hj, rfl, why.detail.toNat_errinfo, why.detail.stage_eq, ?_, ?_⟩
  · rintro rfl
    exact ⟨rfl, rfl⟩
  · rintro w h rfl
    exact ⟨rfl, rfl⟩

/-! ### The interrupt (rules R200, R201) -/

theorem State.irq_iff (s : State) :
    s.irq = true ↔ s.irqEn = true ∧ (s.done = true ∨ s.err = true) := by
  rw [State.irq, Bool.and_eq_true, Bool.or_eq_true]

/-- With DONE or ERR 1, `irq` is EN. -/
theorem State.irq_eq_irqEn {s : State} (h : s.done = true ∨ s.err = true) : s.irq = s.irqEn :=
  Bool.eq_iff_iff.2 (s.irq_iff.trans (and_iff_left h))

/-- With DONE and ERR 0, `irq` is 0. -/
theorem State.irq_eq_false {s : State} (hd : s.done = false) (he : s.err = false) : s.irq = false := by
  rw [State.irq, hd, he, Bool.or_false, Bool.and_false]

/-- A completion from BUSY sets DONE or ERR and keeps EN. -/
theorem Completed.irq_eq {s t : State} (h : Completed s t) (hbusy : s.busy = true) : t.irq = s.irqEn := by
  cases h with
  | idle hj => cases hbusy.symm.trans ((State.busy_eq_false_iff s).2 hj)
  | pixel => exact State.irq_eq_irqEn (.inl rfl)
  | file => exact State.irq_eq_irqEn (.inl rfl)
  | failure => exact State.irq_eq_irqEn (.inr rfl)

theorem irq_of_complete {s t : State} (hbusy : s.execState = .busy) (h : complete s = .next t) :
    t.irq = s.irqEn := by
  obtain ⟨u, hu, hc⟩ := complete_cases s
  obtain rfl : t = u := Host.Outcome.next.inj (h.symm.trans hu)
  exact hc.irq_eq ((State.execState_busy_iff s).1 hbusy)

/-- The commands that acknowledge clear DONE and ERR at their issue in IDLE (rule R196). -/
theorem irq_of_exec_acknowledging {s t : State} {i : Instr} {g : BitVec 24} (hidle : s.execState = .idle)
    (hi : i = .clear g ∨ i = .run g ∨ i = .encodePixel g) (h : exec i s = .next t) : t.irq = false := by
  obtain rfl | rfl | rfl := hi
  · obtain ⟨u, hu, -, -, hirq, -⟩ := clearAcknowledgesAndKeepsResults s g hidle
    exact Host.Outcome.next.inj (hu.symm.trans h) ▸ hirq
  · cases (exec_run_of_idle hidle g).symm.trans h
    exact State.irq_eq_false rfl rfl
  · cases (encodePixelIssueCapturesTheThreeWords s g hidle).symm.trans h
    exact State.irq_eq_false rfl rfl

/-- Settles O58: a completion sets DONE or ERR, an acknowledging command and reset clear both, and VIOL does
not stand in the expression of `irq`. -/
theorem interruptRisesAtCompletionAndFallsAtAcknowledgement :
    Obligations.InterruptRisesAtCompletionAndFallsAtAcknowledgement :=
  fun s _ => ⟨s.irq_iff, irq_of_complete, fun _ _ => irq_of_exec_acknowledging, Bool.false_and _,
    State.irq_eq_false rfl rfl, State.irq_eq_irqEn (s := { s with irqEn := true }), rfl, rfl⟩

end Sys2Proof.Machine

/-! ## The reset step (70_reset_and_hazards.md rule R220) -/
namespace Sys2Proof.Machine

/-- A reset is answered alike in IDLE and BUSY: no part of the state is asked for. -/
theorem step_reset {s : State} {rest : List Event} (h : s.script = .reset :: rest) :
    step s = .next (resetStep { s with script := rest }) := by
  rw [step_of_script_cons h, move]

/-- The fields `resetStep` takes from the state: the parameters, the host's own, and the count of draws. -/
theorem resetStep_withScript (s : State) (rest : List Event) :
    resetStep { s with script := rest } = { State.resetWith s.params with
      script := rest, resp := s.resp, inSeed := s.draws, outSeed := s.draws + 1, draws := s.draws + 2 } := rfl

/-- Settles O2: taking the move off the script is all that happens before the reset values are put in. -/
theorem resetStepRestoresEveryResetValue : Obligations.ResetStepRestoresEveryResetValue := by
  intro s rest h
  rw [step_reset h, resetStep_withScript]

end Sys2Proof.Machine
